-- ==== Sys2Proof/Syntax.lean ====
section
/-! DEFINITION. The commands of the hardware (30_encoding.md R170 to R173), one constructor per row of
spec/opcode_table.json. A command plays the role an instruction plays in an ISA (00_scope.md, glossary). -/

namespace Sys2Proof

/-- A command. Operands are naturals, as the assembler writes them (R177): `c` the channel operand CH of class C,
`f` the frame index operand ARG of class F; WellFormed bounds them by their fields. -/
inductive Instr where
  /-- NOP (R221). -/
  | nop
  /-- WS_INIT (R222, R223). -/
  | wsInit
  /-- WIN_GEN (R224 to R226). -/
  | winGen
  /-- LOAD_ROW c (R260). -/
  | loadRow (c : Nat)
  /-- REFLECT_PAD (R261). -/
  | reflectPad
  /-- FRAME_FWD f (R262). -/
  | frameFwd (f : Nat)
  /-- SPEC_STORE c (R263). -/
  | specStore (c : Nat)
  /-- STFT c (R360). -/
  | stft (c : Nat)
  /-- STFT_ALL (R361). -/
  | stftAll
  /-- SPEC_LOAD c (R310). -/
  | specLoad (c : Nat)
  /-- ACC_CLEAR (R311). -/
  | accClear
  /-- FRAME_INV f (R312). -/
  | frameInv (f : Nat)
  /-- ROW_STORE c (R314). -/
  | rowStore (c : Nat)
  /-- ISTFT c (R362). -/
  | istft (c : Nat)
  /-- ISTFT_ALL (R363). -/
  | istftAll
  deriving DecidableEq, Repr

end Sys2Proof
end

