-- ==== Sys2Proof/WellFormed.lean ====
section
/-! DEFINITION. Which commands have a word: the operand ranges of 30_encoding.md R172. -/

namespace Sys2Proof

/-- The channel operand is one bit, `c ∈ {0, 1}` (R172). -/
def channelOk (c : Nat) : Bool := decide (c < 2)

/-- The frame operand is 23 bits, `f ∈ [0, 2^23)` (R172). -/
def frameOk (f : Nat) : Bool := decide (f < 2 ^ 23)

/-- A command whose operands fit their fields; the assembler refuses any other (R177). -/
def Instr.wellFormed : Instr → Bool
  | .nop => true
  | .wsInit => true
  | .winGen => true
  | .loadRow c => channelOk c
  | .reflectPad => true
  | .frameFwd f => frameOk f
  | .specStore c => channelOk c
  | .stft c => channelOk c
  | .stftAll => true
  | .specLoad c => channelOk c
  | .accClear => true
  | .frameInv f => frameOk f
  | .rowStore c => channelOk c
  | .istft c => channelOk c
  | .istftAll => true

end Sys2Proof
end

