-- ==== Sys2Proof/Word.lean ====
section
/-! DEFINITION. The two widths of the hardware: a 32-bit bus word, which carries one CSR or one binary32 value
(20_memory.md R128), and a byte of the Host port space. -/

namespace Sys2Proof

/-- A 32-bit word: a CSR, a command word, or the bit pattern of a binary32 value (R51, R128, R170). -/
abbrev Word := BitVec 32

/-- A byte of the Host port space (R120, R128). -/
abbrev Byte := BitVec 8

end Sys2Proof
end

