-- ==== Sys2Proof/Decode.lean ====
section
/-! DEFINITION. Decoding of command words, total on all 2^32 words (30_encoding.md R170 to R175), and the encoder. -/

namespace Sys2Proof

/-- Why a word decodes to none (R174, R175); the Engine answers both with ILLEGAL_CMD. -/
inductive IllegalWord where
  /-- The OP field is not in the opcode map of R173. -/
  | unassignedOp (op : Nat)
  /-- A field the class of the opcode does not use is not zero (R171). -/
  | mustBeZero (op : Nat)
  deriving DecidableEq, Repr

/-- OP = v[7:0] (R170). -/
def fieldOp (v : Word) : Nat := v.toNat % 256

/-- CH = v[8] (R170). -/
def fieldCh (v : Word) : Nat := v.toNat / 256 % 2

/-- ARG = v[31:9] (R170). -/
def fieldArg (v : Word) : Nat := v.toNat / 512

/-- Class Z: CH and ARG must be zero (R171). -/
def decodeZ (v : Word) (i : Instr) : Except IllegalWord Instr :=
  if fieldCh v = 0 ∧ fieldArg v = 0 then .ok i else .error (.mustBeZero (fieldOp v))

/-- Class C: ARG must be zero, the operand is CH (R171, R172). -/
def decodeC (v : Word) (mk : Nat → Instr) : Except IllegalWord Instr :=
  if fieldArg v = 0 then .ok (mk (fieldCh v)) else .error (.mustBeZero (fieldOp v))

/-- Class F: CH must be zero, the operand is ARG (R171, R172). -/
def decodeF (v : Word) (mk : Nat → Instr) : Except IllegalWord Instr :=
  if fieldCh v = 0 then .ok (mk (fieldArg v)) else .error (.mustBeZero (fieldOp v))

/-- `Decode(v)` (R174) by the opcode map of R173. -/
def decode (v : Word) : Except IllegalWord Instr :=
  match fieldOp v with
  | 0x00 => decodeZ v .nop
  | 0x01 => decodeZ v .wsInit
  | 0x02 => decodeZ v .winGen
  | 0x10 => decodeC v .loadRow
  | 0x11 => decodeZ v .reflectPad
  | 0x12 => decodeF v .frameFwd
  | 0x13 => decodeC v .specStore
  | 0x18 => decodeC v .stft
  | 0x19 => decodeZ v .stftAll
  | 0x20 => decodeC v .specLoad
  | 0x21 => decodeZ v .accClear
  | 0x22 => decodeF v .frameInv
  | 0x23 => decodeC v .rowStore
  | 0x28 => decodeC v .istft
  | 0x29 => decodeZ v .istftAll
  | op => .error (.unassignedOp op)

/-- The OP byte of a command (R173). -/
def opcode : Instr → Nat
  | .nop => 0x00
  | .wsInit => 0x01
  | .winGen => 0x02
  | .loadRow _ => 0x10
  | .reflectPad => 0x11
  | .frameFwd _ => 0x12
  | .specStore _ => 0x13
  | .stft _ => 0x18
  | .stftAll => 0x19
  | .specLoad _ => 0x20
  | .accClear => 0x21
  | .frameInv _ => 0x22
  | .rowStore _ => 0x23
  | .istft _ => 0x28
  | .istftAll => 0x29

/-- The CH field of a command: its channel operand in class C, else zero (R171). -/
def chField : Instr → Nat
  | .nop => 0
  | .wsInit => 0
  | .winGen => 0
  | .loadRow c => c
  | .reflectPad => 0
  | .frameFwd _ => 0
  | .specStore c => c
  | .stft c => c
  | .stftAll => 0
  | .specLoad c => c
  | .accClear => 0
  | .frameInv _ => 0
  | .rowStore c => c
  | .istft c => c
  | .istftAll => 0

/-- The ARG field of a command: its frame operand in class F, else zero (R171). -/
def argField : Instr → Nat
  | .nop => 0
  | .wsInit => 0
  | .winGen => 0
  | .loadRow _ => 0
  | .reflectPad => 0
  | .frameFwd f => f
  | .specStore _ => 0
  | .stft _ => 0
  | .stftAll => 0
  | .specLoad _ => 0
  | .accClear => 0
  | .frameInv f => f
  | .rowStore _ => 0
  | .istft _ => 0
  | .istftAll => 0

/-- The word of a command, `{ARG, CH, OP}` (R170). -/
def encode (i : Instr) : Word :=
  BitVec.ofNat 32 (opcode i + 256 * chField i + 512 * argField i)

/-- The operand classes of R171. -/
inductive OpClass where
  | z
  | c
  | f
  deriving DecidableEq, Repr

/-- The mask of fixed bits of a class (R171). -/
def OpClass.mask : OpClass → Word
  | .z => 0xFFFFFFFF#32
  | .c => 0xFFFFFEFF#32
  | .f => 0x000001FF#32

/-- A row of the opcode map of R173. -/
structure OpRow where
  /-- The mnemonic, as spec/opcode_table.json spells it. -/
  mnemonic : String
  /-- The operand class. -/
  cls : OpClass
  /-- The whole word with operand fields zero. -/
  pattern : Word
  deriving DecidableEq, Repr

/-- The opcode map (R173). -/
def opRows : List OpRow := [
  ⟨"NOP", .z, 0x00000000#32⟩,
  ⟨"WS_INIT", .z, 0x00000001#32⟩,
  ⟨"WIN_GEN", .z, 0x00000002#32⟩,
  ⟨"LOAD_ROW", .c, 0x00000010#32⟩,
  ⟨"REFLECT_PAD", .z, 0x00000011#32⟩,
  ⟨"FRAME_FWD", .f, 0x00000012#32⟩,
  ⟨"SPEC_STORE", .c, 0x00000013#32⟩,
  ⟨"STFT", .c, 0x00000018#32⟩,
  ⟨"STFT_ALL", .z, 0x00000019#32⟩,
  ⟨"SPEC_LOAD", .c, 0x00000020#32⟩,
  ⟨"ACC_CLEAR", .z, 0x00000021#32⟩,
  ⟨"FRAME_INV", .f, 0x00000022#32⟩,
  ⟨"ROW_STORE", .c, 0x00000023#32⟩,
  ⟨"ISTFT", .c, 0x00000028#32⟩,
  ⟨"ISTFT_ALL", .z, 0x00000029#32⟩]

/-- The mnemonic of a command (R173). -/
def mnemonicOf : Instr → String
  | .nop => "NOP"
  | .wsInit => "WS_INIT"
  | .winGen => "WIN_GEN"
  | .loadRow _ => "LOAD_ROW"
  | .reflectPad => "REFLECT_PAD"
  | .frameFwd _ => "FRAME_FWD"
  | .specStore _ => "SPEC_STORE"
  | .stft _ => "STFT"
  | .stftAll => "STFT_ALL"
  | .specLoad _ => "SPEC_LOAD"
  | .accClear => "ACC_CLEAR"
  | .frameInv _ => "FRAME_INV"
  | .rowStore _ => "ROW_STORE"
  | .istft _ => "ISTFT"
  | .istftAll => "ISTFT_ALL"

/-- `v & mask = match` (R174). -/
def OpRow.covers (r : OpRow) (v : Word) : Bool := v &&& r.cls.mask == r.pattern

/-- The instruction the decoder reads from an instruction of `nbits` bits `w`: a command word is one 32-bit bus word
(R170), so the table's bit numbers are the word's own. -/
def decodeTableWord (nbits w : Nat) : Option Instr :=
  match decode (BitVec.ofNat 32 (w % 2 ^ nbits)) with
  | .ok i => some i
  | .error _ => none

end Sys2Proof
end

