-- ==== Sys2Proof/Config.lean ====
section
/-! DEFINITION. What an implementation fixes (00_scope.md R6) and the free values of the model. The build parameters are
plain data, an argument of the machine: State holds the build it is a state of, and nothing changes it (log 4). A value the
spec does not fix is an opaque constant, of which nothing can be proved. -/

namespace Sys2Proof.Config

/-- FFT_SUPPORTS (R6): the lengths the FFT unit implements. -/
inductive FftLengths where
  /-- The powers of two, the spec's default. -/
  | powersOfTwo
  /-- The lengths listed. -/
  | listed (lengths : List Nat)
  deriving DecidableEq, Repr

/-- The OPEN build parameters of R6, apart from NUM and the FFT unit's functions. -/
structure Build where
  /-- WMAX, the largest legal window length (R68). -/
  wMax : Nat
  /-- NMAX, the largest legal signal length (R68). -/
  nMax : Nat
  /-- NBMAX, the largest legal frame count (R68). -/
  nbMax : Nat
  /-- FFT_SUPPORTS. -/
  fftLengths : FftLengths
  /-- WINDOW_IMPL (R16): the window of each length listed; a length not listed has the default window (log 9). -/
  windows : List (Nat × List Word)
  deriving DecidableEq, Repr

/-- The build with every parameter at the spec's default (R6). -/
def Build.default : Build where
  wMax := 4096
  nMax := 4194304
  nbMax := 4096
  fftLengths := .powersOfTwo
  windows := []

/-- The four arithmetic operations of NUM (R9, R10); names the operation whose NaN result is meant. -/
inductive NumOp where
  | add
  | sub
  | mul
  | div
  deriving DecidableEq, Repr

/-- Free value: the source of a NaN result's sign and payload, by operation and operands (I8, log 6). -/
opaque nanBits : NumOp → Word → Word → Word

/-- Free value: the real part of bin b of FFT_FWD_IMPL(W, x) under binary32 (R15, I2, log 7). -/
opaque fftFwdRe : Nat → List Word → Nat → Word

/-- Free value: the imaginary part of bin b of FFT_FWD_IMPL(W, x) under binary32 (R15, I2, log 7). -/
opaque fftFwdIm : Nat → List Word → Nat → Word

/-- Free value: sample n of FFT_INV_IMPL(W, X) under binary32 (R15, I2, log 7). -/
opaque fftInv : Nat → List (Word × Word) → Nat → Word

/-- Free value: which of two neighbouring binary32 values a default window takes where the model's bounds on the cosine do
not tell which is nearer (R16, log 9). -/
opaque windowUpper : Nat → Nat → Bool

/-- Free value: the n-th unconstrained draw a Host read of an unspecified element returns (R82, I15, log 10). -/
opaque hostDraw : Nat → Word

end Sys2Proof.Config
end

