-- ==== Sys2Proof/Machine/State.lean ====
section
/-! DEFINITION. The state of the hardware (10_state.md R50): the CSR file (R52 to R69), the workspace buffers (R71 to
R82) and the pending command (R83), with the Host's side of the port as plain data, and the state after reset (R461). -/

namespace Sys2Proof.Machine

/-- The ten workspace buffers (R71). -/
inductive Buffer where
  /-- WAVE, the 2 x N waveform (R72). -/
  | wave
  /-- SPEC, the spectrogram tensor (R73). -/
  | spec
  /-- WINDOW, the analysis window (R74). -/
  | window
  /-- NORM, the normalisation array (R75). -/
  | norm
  /-- PADDED, one channel's padded input (R76). -/
  | padded
  /-- PAD_START, the first reflect-pad scratch vector (R77). -/
  | padStart
  /-- PAD_END, the second reflect-pad scratch vector (R78). -/
  | padEnd
  /-- WINDOWED, the per-frame windowed buffer (R79). -/
  | windowed
  /-- CFRAMES, the complex frame table (R80). -/
  | cframes
  /-- OUTACC, the output accumulator (R81). -/
  | outacc
  deriving DecidableEq, Repr

/-- The buffers' storage: pairs of a byte address of the Host port space (20_memory.md R120, R121) and the byte there,
addresses strictly rising. A byte that is not listed belongs to an unspecified element (R82) and has no value: log 12. -/
abbrev Memory := List Host.Cell

/-- A Host bus transaction as the port sees it (R129): an address, the number of bytes moved, and the data of a write. -/
inductive BusReq where
  /-- A read of `bytes` bytes at `addr`. -/
  | read (addr : Word) (bytes : Nat)
  /-- A write of `data`, `bytes` bytes wide, at `addr`. -/
  | write (addr : Word) (bytes : Nat) (data : Word)
  deriving DecidableEq, Repr

/-- The port's answer to a transaction (R130): the error response and the data (0 for a write, log 13). -/
structure BusResp where
  /-- The error response of a transaction the hardware refuses. -/
  error : Bool
  /-- The data of a read. -/
  data : Word
  deriving DecidableEq, Repr

/-- Who moves next (R3, R137, R473), as data: log 2. -/
inductive Turn where
  /-- The Host issues a transaction. -/
  | host (req : BusReq)
  /-- The Engine takes its step, if it has one (R83). -/
  | engine
  /-- The hard reset input is asserted (R460). -/
  | hardReset
  deriving DecidableEq, Repr

/-- The values of the four CFG registers (R61 to R64). -/
structure CfgRegs where
  /-- CFG_WIN_LEN. -/
  winLen : Word
  /-- CFG_HOP. -/
  hop : Word
  /-- CFG_SIG_LEN. -/
  sigLen : Word
  /-- CFG_EPS. -/
  eps : Word
  deriving DecidableEq, Repr

/-- A pending command (R83): its word, with the CFG values it was accepted with, which are those a WS_INIT reads: a CFG
write while busy has no effect on a running command (R61 to R64, 70_reset_and_hazards.md R470, R474; log 24). -/
structure Pending where
  /-- The command word. -/
  word : Word
  /-- CFG at the acceptance of the word. -/
  cfg : CfgRegs
  deriving DecidableEq, Repr

/-- The command-error codes (60_exceptions.md R401), code 0x00 apart. -/
inductive CmdError where
  /-- 0x01: the pending word decodes to none. -/
  | illegalCmd
  /-- 0x02: the command needs an active geometry and WS_VALID = 0. -/
  | wsNotReady
  /-- 0x03: the command needs the window and WIN_VALID = 0. -/
  | winNotReady
  /-- 0x04: the frame operand is not below NB. -/
  | badFrame
  /-- 0x10: CFG_WIN_LEN is not legal. -/
  | badWinLen
  /-- 0x11: CFG_HOP is not legal. -/
  | badHop
  /-- 0x12: CFG_SIG_LEN is not legal. -/
  | badSigLen
  /-- 0x13: CFG_EPS is not a positive finite binary32. -/
  | badEps
  /-- 0x14: more frames than NBMAX. -/
  | capacity
  deriving DecidableEq, Repr

/-- The model's only fault (60_exceptions.md R400). -/
inductive Fault where
  /-- UnspecifiedRead (R82, I1): raised by a command body that reads a buffer element no one has written since reset or
  the last successful WS_INIT; names the command and the element (linear index in its buffer). Safe: the hardware goes on
  with unknown bits, the model stops, as R82 asks. -/
  | unspecifiedRead (cmd : Instr) (buffer : Buffer) (index : Nat)
  deriving DecidableEq, Repr

/-- The model refuses nothing; the constructor is the host's. -/
inductive Refusal where
  /-- An instruction with no meaning yet: raised by no arm. Safe. -/
  | notModelled (mnemonic : String)
  deriving DecidableEq, Repr

/-- The state of the hardware (R50). STATUS.BUSY is "pending is present" (R55, log 3); ID, VERSION, CTRL, CMD and CAP_*
hold no state (R52 to R54, R60, R68) and live in the CSR read. -/
structure State where
  /-- STATUS.WS_VALID (R55): an active geometry is latched. -/
  wsValid : Bool
  /-- STATUS.WIN_VALID (R55): WINDOW and NORM hold the active geometry's arrays. -/
  winValid : Bool
  /-- STATUS.LAST_OP (R55). -/
  lastOp : BitVec 8
  /-- IRQ_STATUS.DONE (R56). -/
  irqDone : Bool
  /-- IRQ_STATUS.ERR (R56). -/
  irqErr : Bool
  /-- IRQ_EN.DONE_EN (R57). -/
  doneEn : Bool
  /-- IRQ_EN.ERR_EN (R57). -/
  errEn : Bool
  /-- ERR_CODE.CODE (R58). -/
  errCode : BitVec 8
  /-- ERR_INFO (R59). -/
  errInfo : Word
  /-- CFG_WIN_LEN (R61). -/
  cfgWinLen : Word
  /-- CFG_HOP (R62). -/
  cfgHop : Word
  /-- CFG_SIG_LEN (R63). -/
  cfgSigLen : Word
  /-- CFG_EPS (R64). -/
  cfgEps : Word
  /-- ACT_WIN_LEN = G.W (R65). -/
  actWinLen : Word
  /-- ACT_HOP = G.H (R65). -/
  actHop : Word
  /-- ACT_SIG_LEN = G.N (R65). -/
  actSigLen : Word
  /-- ACT_EPS = G.EPS as binary32 bits (R65). -/
  actEps : Word
  /-- PAD_LEN = G.P (R66). -/
  padLen : Word
  /-- PADDED_LEN = G.L (R66). -/
  paddedLen : Word
  /-- NB_FRAMES = G.NB (R66). -/
  nbFrames : Word
  /-- NB_BINS = G.NBINS (R66). -/
  nbBins : Word
  /-- FWD_SCALE = G.CF (R67). -/
  fwdScale : Word
  /-- INV_SCALE = G.CI (R67). -/
  invScale : Word
  /-- The ten workspace buffers with their element states (R71, R82). -/
  mem : Memory
  /-- The pending command (R83). -/
  pending : Option Pending
  /-- The model's own: the turns to come (log 2). -/
  turns : List Turn
  /-- The model's own: the port's last answer (log 13). -/
  response : Option BusResp
  /-- The model's own: how many unconstrained draws Host reads have taken (log 10). -/
  draws : Nat
  /-- The model's own: the build this is a state of, which nothing changes (R6, R50; log 4). -/
  build : Config.Build
  deriving DecidableEq, Repr

/-- The state of a build after reset (R461, R85); `turns`, `response`, `draws` and `build` are the model's own
(log 2, 4, 10, 13). -/
def State.resetOf (b : Config.Build) : State where
  wsValid := false
  winValid := false
  lastOp := 0x00#8
  irqDone := false
  irqErr := false
  doneEn := false
  errEn := false
  errCode := 0x00#8
  errInfo := 0x00000000#32
  cfgWinLen := 0x00001000#32
  cfgHop := 0x00000400#32
  cfgSigLen := 0x00000000#32
  cfgEps := 0x322BCC77#32
  actWinLen := 0x00000000#32
  actHop := 0x00000000#32
  actSigLen := 0x00000000#32
  actEps := 0x00000000#32
  padLen := 0x00000000#32
  paddedLen := 0x00000000#32
  nbFrames := 0x00000000#32
  nbBins := 0x00000000#32
  fwdScale := 0x00000000#32
  invScale := 0x00000000#32
  mem := []
  pending := none
  turns := []
  response := none
  draws := 0
  build := b

/-- The state after reset of the build with the spec's default parameters (R6, R461; log 4). -/
def State.reset : State := State.resetOf Config.Build.default

end Sys2Proof.Machine
end

