-- ==== Sys2Proof/Machine/Flags.lean ====
section
/-! DEFINITION. Every flag computation: the STATUS word (10_state.md R55), the interrupt registers (R56, R57), the
interrupt line (60_exceptions.md R409), the error codes (R401), and the flags each command needs (30_encoding.md R173). -/

namespace Sys2Proof.Machine

/-- A flag as the number 0 or 1. -/
def bitOf (b : Bool) : Nat := if b then 1 else 0

/-- STATUS.BUSY: 1 exactly when the pending command is present (R55, R83; log 3). -/
def State.busy (s : State) : Bool := s.pending.isSome

/-- The STATUS word (R55). -/
def State.status (s : State) : Word :=
  BitVec.ofNat 32 (bitOf s.busy + 2 * bitOf s.wsValid + 4 * bitOf s.winValid + 256 * s.lastOp.toNat)

/-- The IRQ_STATUS word: DONE bit 0, ERR bit 1 (R56). -/
def State.irqStatus (s : State) : Word := BitVec.ofNat 32 (bitOf s.irqDone + 2 * bitOf s.irqErr)

/-- The IRQ_EN word: DONE_EN bit 0, ERR_EN bit 1 (R57). -/
def State.irqEn (s : State) : Word := BitVec.ofNat 32 (bitOf s.doneEn + 2 * bitOf s.errEn)

/-- The interrupt output, a function of the CSR file at every moment (R409). -/
def State.irq (s : State) : Bool := (s.irqDone && s.doneEn) || (s.irqErr && s.errEn)

/-- The W1C write of IRQ_STATUS: each bit written as 1 is cleared (R56). -/
def ackIrq (v : Word) (s : State) : State :=
  { s with irqDone := s.irqDone && !v.getLsbD 0, irqErr := s.irqErr && !v.getLsbD 1 }

/-- The write of IRQ_EN (R57). -/
def setIrqEn (v : Word) (s : State) : State :=
  { s with doneEn := v.getLsbD 0, errEn := v.getLsbD 1 }

/-- The code of a command error (R401). -/
def CmdError.code : CmdError → BitVec 8
  | .illegalCmd => 0x01#8
  | .wsNotReady => 0x02#8
  | .winNotReady => 0x03#8
  | .badFrame => 0x04#8
  | .badWinLen => 0x10#8
  | .badHop => 0x11#8
  | .badSigLen => 0x12#8
  | .badEps => 0x13#8
  | .capacity => 0x14#8

/-- The column "needs WS_VALID" of R173. -/
def needsWs : Instr → Bool
  | .nop => false
  | .wsInit => false
  | .winGen => true
  | .loadRow _ => true
  | .reflectPad => true
  | .frameFwd _ => true
  | .specStore _ => true
  | .stft _ => true
  | .stftAll => true
  | .specLoad _ => true
  | .accClear => true
  | .frameInv _ => true
  | .rowStore _ => true
  | .istft _ => true
  | .istftAll => true

/-- The column "needs WIN_VALID" of R173. -/
def needsWin : Instr → Bool
  | .nop => false
  | .wsInit => false
  | .winGen => false
  | .loadRow _ => false
  | .reflectPad => false
  | .frameFwd _ => true
  | .specStore _ => false
  | .stft _ => true
  | .stftAll => true
  | .specLoad _ => false
  | .accClear => false
  | .frameInv _ => true
  | .rowStore _ => false
  | .istft _ => true
  | .istftAll => true

end Sys2Proof.Machine
end

