-- ==== Sys2Proof/Machine/Operands.lean ====
section
/-! DEFINITION. What the operands of a command and the offsets of a bus transaction name: the active geometry (10_state.md
R65 to R67), the buffers' layouts (20_memory.md R121 to R127), the frame operand (30_encoding.md R172). -/

namespace Sys2Proof.Machine

/-- G.W (R65). -/
def State.gW (s : State) : Nat := s.actWinLen.toNat

/-- G.H (R65). -/
def State.gH (s : State) : Nat := s.actHop.toNat

/-- G.N (R65). -/
def State.gN (s : State) : Nat := s.actSigLen.toNat

/-- G.P (R66). -/
def State.gP (s : State) : Nat := s.padLen.toNat

/-- G.L (R66). -/
def State.gL (s : State) : Nat := s.paddedLen.toNat

/-- G.NB (R66). -/
def State.gNB (s : State) : Nat := s.nbFrames.toNat

/-- G.NBINS (R66). -/
def State.gNBINS (s : State) : Nat := s.nbBins.toNat

/-- The CFG registers (R61 to R64). -/
def State.cfgRegs (s : State) : CfgRegs := ⟨s.cfgWinLen, s.cfgHop, s.cfgSigLen, s.cfgEps⟩

/-- The CFG values a WS_INIT reads: those its word was accepted with while it is pending, else the registers (R222, R474;
log 24). -/
def State.wsCfg (s : State) : CfgRegs :=
  match s.pending with
  | some p => p.cfg
  | none => s.cfgRegs

/-- The frame operand of a class F command (R172). -/
def frameOperand : Instr → Option Nat
  | .nop => none
  | .wsInit => none
  | .winGen => none
  | .loadRow _ => none
  | .reflectPad => none
  | .frameFwd f => some f
  | .specStore _ => none
  | .stft _ => none
  | .stftAll => none
  | .specLoad _ => none
  | .accClear => none
  | .frameInv f => some f
  | .rowStore _ => none
  | .istft _ => none
  | .istftAll => none

/-- The region of a buffer's window (R121). -/
def Buffer.region : Buffer → Nat
  | .wave => 0x1
  | .spec => 0x2
  | .window => 0x3
  | .norm => 0x4
  | .padded => 0x5
  | .padStart => 0x6
  | .padEnd => 0x7
  | .windowed => 0x8
  | .cframes => 0x9
  | .outacc => 0xA

/-- The buffer of a region (R121); none for the CSR file and the reserved regions. -/
def bufferOfRegion : Nat → Option Buffer
  | 0x1 => some .wave
  | 0x2 => some .spec
  | 0x3 => some .window
  | 0x4 => some .norm
  | 0x5 => some .padded
  | 0x6 => some .padStart
  | 0x7 => some .padEnd
  | 0x8 => some .windowed
  | 0x9 => some .cframes
  | 0xA => some .outacc
  | _ => none

/-- The element size in bytes (R121, R123). -/
def Buffer.elemSize : Buffer → Nat
  | .wave => 4
  | .spec => 8
  | .window => 4
  | .norm => 4
  | .padded => 4
  | .padStart => 4
  | .padEnd => 4
  | .windowed => 4
  | .cframes => 8
  | .outacc => 4

/-- The active length in elements (R71). -/
def Buffer.len (s : State) : Buffer → Nat
  | .wave => 2 * s.gN
  | .spec => 2 * s.gNBINS * s.gNB
  | .window => s.gW
  | .norm => s.gL
  | .padded => s.gL
  | .padStart => s.gP
  | .padEnd => s.gP
  | .windowed => s.gW
  | .cframes => s.gNB * s.gNBINS
  | .outacc => s.gL

/-- The buffers the Host may write (R131). -/
def Buffer.hostWritable : Buffer → Bool
  | .wave => true
  | .spec => true
  | .window => false
  | .norm => false
  | .padded => false
  | .padStart => false
  | .padEnd => false
  | .windowed => false
  | .cframes => false
  | .outacc => false

/-- The port address of a buffer's window (R121). -/
def Buffer.base (b : Buffer) : Nat := b.region * 2 ^ 28

/-- The port address of element e of a buffer: its word, or its real part (R123 to R127). -/
def Buffer.addr (b : Buffer) (e : Nat) : Nat := b.base + b.elemSize * e

/-- The element index of WAVE[c][n] (R124). -/
def State.waveIndex (s : State) (c n : Nat) : Nat := c * s.gN + n

/-- The element index of SPEC[c][b][f] (R125). -/
def State.specIndex (s : State) (c b f : Nat) : Nat := (c * s.gNBINS + b) * s.gNB + f

/-- The element index of CFRAMES[f][b] (R126). -/
def State.cframeIndex (s : State) (f b : Nat) : Nat := f * s.gNBINS + b

/-- The start of frame f, `s = f·H` (R262, R312). -/
def State.frameStart (s : State) (f : Nat) : Nat := f * s.gH

/-- The n indices from `start` on, in increasing order. -/
def indices (start n : Nat) : List Nat := (List.range n).map (start + ·)

end Sys2Proof.Machine
end

