-- ==== Sys2Proof/Machine/Float.lean ====
section
/-! DEFINITION. NUM as IEEE 754 binary32, round to nearest even, subnormals kept, no flags, no traps (00_scope.md R10,
G1). Operands become integers in units of 2^-149, the operation is exact, and one function rounds at the end. -/

namespace Sys2Proof.Machine

/-- The sign bit. -/
def signBit (x : Word) : Bool := x.msb

/-- The magnitude bits: exponent and fraction fields, x[30:0]. -/
def magBits (x : Word) : Nat := x.toNat % 2 ^ 31

/-- The magnitude bits of infinity. -/
def infMag : Nat := 0x7F800000

/-- A NaN: exponent field 0xFF, fraction not zero. -/
def isNaN (x : Word) : Bool := decide (infMag < magBits x)

/-- An infinity of either sign. -/
def isInf (x : Word) : Bool := decide (magBits x = infMag)

/-- The word with the given sign and magnitude bits. -/
def packFloat (neg : Bool) (mag : Nat) : Word :=
  BitVec.ofNat 32 ((if neg then 2 ^ 31 else 0) + mag)

/-- The magnitude of finite magnitude bits `p`, in units of 2^-149 (every finite binary32 is a multiple of it). -/
def magValue (p : Nat) : Nat :=
  if p < 2 ^ 24 then p else (2 ^ 23 + p % 2 ^ 23) * 2 ^ (p / 2 ^ 23 - 1)

/-- The value of a finite word, in units of 2^-149. -/
def floatInt (x : Word) : Int :=
  if signBit x then -(magValue (magBits x) : Int) else (magValue (magBits x) : Int)

/-- The magnitude bits of the binary32 nearest to the non-negative rational `num / den` in units of 2^-149, ties to even,
infinity past the largest finite value (R10). -/
def roundMag (num den : Nat) : Nat :=
  let q := num / den
  let e := if q < 2 ^ 24 then 0 else Nat.log2 q - 23
  let d := den * 2 ^ e
  let m := num / d
  let r := num % d
  let m' := if 2 * r < d then m else if d < 2 * r then m + 1 else m + m % 2
  min (e * 2 ^ 23 + m') infMag

/-- A NaN result: any NaN encoding, by operation and operands (I8, log 6). -/
def nanResult (op : Config.NumOp) (a b : Word) : Word :=
  let free := Config.nanBits op a b
  let frac := if free.toNat % 2 ^ 23 = 0 then 0x400000 else free.toNat % 2 ^ 23
  packFloat free.msb (infMag + frac)

/-- The exact sum of two finite values, rounded; an exact zero is -0 only when both operands are -0 (R10). -/
def addFinite (a b : Word) : Word :=
  let k := floatInt a + floatInt b
  if k = 0 then packFloat (signBit a && signBit b) 0
  else packFloat (decide (k < 0)) (roundMag k.natAbs 1)

/-- `a ⊕ b` (R9, R10), by operand kind. -/
def addKind (op : Config.NumOp) (a b : Word) : Word :=
  if isNaN a || isNaN b then nanResult op a b
  else if isInf a && isInf b then
    if signBit a = signBit b then a else nanResult op a b
  else if isInf a then a
  else if isInf b then b
  else addFinite a b

/-- `a ⊕ b` (R9, R10). -/
def numAdd (a b : Word) : Word := addKind .add a b

/-- The word with its sign flipped. -/
def numNeg (x : Word) : Word := x ^^^ 0x80000000#32

/-- `a ⊖ b` (R9, R10); no rule of the block uses it. -/
def numSub (a b : Word) : Word :=
  if isNaN a || isNaN b then nanResult .sub a b else addKind .sub a (numNeg b)

/-- The sign of a product or quotient. -/
def signXor (a b : Word) : Bool := signBit a != signBit b

/-- `a ⊗ b` (R9, R10). -/
def numMul (a b : Word) : Word :=
  if isNaN a || isNaN b then nanResult .mul a b
  else if isInf a || isInf b then
    if magBits a = 0 || magBits b = 0 then nanResult .mul a b
    else packFloat (signXor a b) infMag
  else packFloat (signXor a b) (roundMag (magValue (magBits a) * magValue (magBits b)) (2 ^ 149))

/-- `a ⊘ b` (R9, R10); a finite non-zero value divided by zero is an infinity and nothing traps. -/
def numDiv (a b : Word) : Word :=
  if isNaN a || isNaN b then nanResult .div a b
  else if isInf a then
    if isInf b then nanResult .div a b else packFloat (signXor a b) infMag
  else if isInf b then packFloat (signXor a b) 0
  else if magBits b = 0 then
    if magBits a = 0 then nanResult .div a b else packFloat (signXor a b) infMag
  else packFloat (signXor a b) (roundMag (magValue (magBits a) * 2 ^ 149) (magValue (magBits b)))

/-- `num(n)`, the NUM value of the natural n (R9). -/
def numOfNat (n : Nat) : Word := packFloat false (roundMag (n * 2 ^ 149) 1)

/-- The largest magnitude bits at which `ge` holds, fixing `bits` bits from the top, for a downward closed `ge`. -/
def searchMag (ge : Nat → Bool) : Nat → Nat → Nat
  | 0, p => p
  | bits + 1, p => searchMag ge bits (if ge (p + 2 ^ bits) then p + 2 ^ bits else p)

/-- `rnd(r)` for a non-negative real r given by comparisons: `cmp M` compares r with M units of 2^-150 (R9). The answer is
the magnitude bits of the nearest binary32, ties to even. -/
def roundReal (cmp : Nat → Ordering) : Nat :=
  let p := searchMag (fun p => cmp (2 * magValue p) != .lt) 31 0
  match cmp (magValue p + magValue (p + 1)) with
  | .lt => p
  | .gt => p + 1
  | .eq => p + p % 2

/-- Compares √W with M units of 2^-150. -/
def sqrtCmp (W M : Nat) : Ordering := compare (W * 2 ^ 150 * 2 ^ 150) (M * M)

/-- Compares 1/√W with M units of 2^-150. -/
def rsqrtCmp (W M : Nat) : Ordering := compare (2 ^ 150 * 2 ^ 150) (M * M * W)

/-- The forward scale `CF = rnd(1/√W)` (R17). -/
def fwdScaleOf (W : Nat) : Word := packFloat false (roundReal (rsqrtCmp W))

/-- The inverse scale `CI = rnd(√W)` (R17). -/
def invScaleOf (W : Nat) : Word := packFloat false (roundReal (sqrtCmp W))

end Sys2Proof.Machine
end

