-- ==== Sys2Proof/Machine/Window.lean ====
section
/-! DEFINITION. The analysis window (00_scope.md R16): the build's own table of a length, or the default, the periodic
Hann window rounded once to binary32. The powers of two are rounded by exact comparison; any other length by bounds on
the cosine (log 9). -/

namespace Sys2Proof.Machine

/-- W is a power of two, FFT_SUPPORTS's default (R6). -/
def isPowerOfTwo (W : Nat) : Bool := W != 0 && (W &&& (W - 1)) == 0

/-- FFT_SUPPORTS of a build (R6). -/
def fftSupports (b : Config.Build) (W : Nat) : Bool :=
  match b.fftLengths with
  | .powersOfTwo => isPowerOfTwo W
  | .listed ls => ls.contains W

/-! ### Powers of two: exact comparison -/

/-- Compares cos(2π·i / 2^k) with num/den, for 2·i ≤ 2^k and den > 0, by the exact doubling cos 2θ = 2·cos²θ - 1 on the
quadrant of θ: no approximation of a cosine is made. -/
def cosCmp : Nat → Nat → Int → Int → Ordering
  | 0, _, num, den => compare den num
  | k + 1, i, num, den =>
    if 4 * i = 2 ^ (k + 1) then compare 0 num
    else if 4 * i < 2 ^ (k + 1) then
      if num ≤ 0 then .gt else cosCmp k i (2 * num * num - den * den) (den * den)
    else
      if 0 ≤ num then .lt
      else (cosCmp k (2 ^ k - i) (2 * num * num - den * den) (den * den)).swap

/-- Compares WINDOW_REF(2^k, i) = 0.5 - 0.5·cos(2π·i / 2^k) with M units of 2^-150 (R16), for 2·i ≤ 2^k: the window value
exceeds m exactly when the cosine is below 1 - 2·m. The fraction is reduced first, which keeps the numbers short. -/
def hannCmp (k i M : Nat) : Ordering :=
  let g := Nat.gcd M (2 ^ 149)
  (cosCmp k i ((2 ^ 149 : Int) / g - (M / g : Nat)) ((2 ^ 149 : Int) / g)).swap

/-! ### Any length: bounds on the cosine -/

/-- One in the fixed-point units of the bounds, 2^-192. -/
def cosOne : Nat := 2 ^ 192

/-- The integer square root, rounded down, of a number up to cosOne². -/
def sqrtDown (n : Nat) : Nat := searchMag (fun r => decide (r * r ≤ n)) 193 0

/-- √((1 + x) / 2) rounded down, for u units of 1 + x. -/
def halfAngleDown (u : Nat) : Nat := sqrtDown (u * 2 ^ 191)

/-- √((1 + x) / 2) rounded up, for u units of 1 + x; never above one. -/
def halfAngleUp (u : Nat) : Nat := min cosOne (halfAngleDown u + 1)

/-- Lower and upper bounds on 1 + cos(2π·i/W), for 2·i ≤ W, from n uses of cos θ = ±√((1 + cos 2θ) / 2): the sign is that
of the quadrant of θ, and 2θ is folded back into [0, π]. Each use halves the uncertainty of the angle. -/
def cosBounds (W : Nat) : Nat → Nat → Nat × Nat
  | 0, _ => (0, 2 * cosOne)
  | n + 1, i =>
    if 4 * i ≤ W then
      let q := cosBounds W n (2 * i)
      (cosOne + halfAngleDown q.1, cosOne + halfAngleUp q.2)
    else
      let q := cosBounds W n (W - 2 * i)
      (cosOne - halfAngleUp q.2, cosOne - halfAngleDown q.1)

/-- The magnitude bits of u / 2 rounded to nearest, for u units of 1 - cos: the Hann value of that cosine. -/
def hannMag (u : Nat) : Nat := roundMag (u * 2 ^ 149) (2 * cosOne)

/-- The roundings of a lower and an upper bound on WINDOW_REF(W, i) (R16), for 2·i ≤ W. -/
def hannBounds (W i : Nat) : Nat × Nat :=
  let q := cosBounds W 96 i
  (hannMag (2 * cosOne - q.2), hannMag (2 * cosOne - q.1))

/-- The magnitude bits of the default window value at i, for 2·i ≤ W: where both bounds round to one value it is the
nearest; where they do not, which of the two is stored is free (log 9). -/
def hannMagAt (W i : Nat) : Nat :=
  if isPowerOfTwo W then roundReal (hannCmp (Nat.log2 W) i)
  else if (hannBounds W i).1 = (hannBounds W i).2 then (hannBounds W i).1
  else if Config.windowUpper W i then (hannBounds W i).2 else (hannBounds W i).1

/-! ### WINDOW_IMPL -/

/-- The default `WINDOW_IMPL(W, i) = rnd(WINDOW_REF(W, i))`, the periodic Hann window (R16), with the symmetry
WINDOW[i] = WINDOW[W - i]. -/
def windowImpl (W i : Nat) : Word := packFloat false (hannMagAt W (min i (W - i)))

/-- `WINDOW_IMPL(W, i)` of a build (R6, R16, I3): its own table of the length, or the default. -/
def windowOf (b : Config.Build) (W i : Nat) : Word :=
  match b.windows.find? fun t => t.1 = W with
  | some t => t.2.getD i 0x00000000#32
  | none => windowImpl W i

end Sys2Proof.Machine
end

