-- ==== Sys2Proof/Machine/Ops.lean ====
section
/-! DEFINITION. The named operations every command meaning is made of: the buffers' storage, reading and writing buffer
elements, the checks of a command (60_exceptions.md R402), failing (R404: this hardware's trap entry), succeeding (R406),
latching a geometry (40_setup.md R223) and reset (70_reset_and_hazards.md R461). -/

namespace Sys2Proof.Machine

/-! ### Storage -/

/-- The byte at a port address; none where no value is held (R82). -/
def Memory.byte : Memory → Nat → Option Byte
  | [], _ => none
  | (a, b) :: m, k => if a = k then some b else Memory.byte m k

/-- The addresses rise strictly: the ONE canonical form. An unlisted byte has no value, so no entry can equal it. -/
def Memory.wf : Memory → Bool
  | [] => true
  | [_] => true
  | (a, _) :: (b, x) :: m => decide (a < b) && Memory.wf ((b, x) :: m)

/-- Consecutive bytes as cells from address `a` on. -/
def cellsFrom : Nat → List Byte → List Host.Cell
  | _, [] => []
  | a, b :: bs => (a, b) :: cellsFrom (a + 1) bs

/-- Overwrites the bytes from address `a` on. -/
def Memory.splice (m : Memory) (a : Nat) (bs : List Byte) : Memory :=
  m.filter (fun c => decide (c.1 < a)) ++ cellsFrom a bs ++ m.filter (fun c => decide (a + bs.length ≤ c.1))

/-- The bytes of a word, least significant first: the port is little-endian (R128). -/
def wordBytes (v : Word) : List Byte :=
  [v.extractLsb' 0 8, v.extractLsb' 8 8, v.extractLsb' 16 8, v.extractLsb' 24 8]

/-- The word of four bytes, least significant first (R128). -/
def wordOfBytes (b0 b1 b2 b3 : Byte) : Word :=
  BitVec.ofNat 32 (b0.toNat + 2 ^ 8 * b1.toNat + 2 ^ 16 * b2.toNat + 2 ^ 24 * b3.toNat)

/-- The word at a port address (R128); none where a byte of it has no value (R82). -/
def Memory.word (m : Memory) (a : Nat) : Option Word :=
  match m.byte a, m.byte (a + 1), m.byte (a + 2), m.byte (a + 3) with
  | some b0, some b1, some b2, some b3 => some (wordOfBytes b0 b1 b2 b3)
  | _, _, _, _ => none

/-- Writes words at consecutive port addresses from `a` on. -/
def Memory.writeWords (m : Memory) (a : Nat) (vs : List Word) : Memory := m.splice a (vs.flatMap wordBytes)

/-! ### Buffer elements -/

/-- The byte of the buffers' storage at a port address. -/
def State.byteAt (s : State) (a : Nat) : Option Byte := s.mem.byte a

/-- Element e of a real buffer; none when unspecified (R82). -/
def State.realAt (s : State) (b : Buffer) (e : Nat) : Option Word := s.mem.word (b.addr e)

/-- Element e of a complex buffer; none when a part is unspecified (R82, R123). -/
def State.complexAt (s : State) (b : Buffer) (e : Nat) : Option (Word × Word) :=
  match s.mem.word (b.addr e), s.mem.word (b.addr e + 4) with
  | some re, some im => some (re, im)
  | _, _ => none

/-- The Engine reads the elements of a real buffer at the given indices, in order; an unspecified one is the model fault
UnspecifiedRead, naming the command and the element (R82; log 11). -/
def readReals (cmd : Instr) (b : Buffer) (s : State) : List Nat → Except Fault (List Word)
  | [] => .ok []
  | e :: es =>
    match s.realAt b e with
    | none => .error (.unspecifiedRead cmd b e)
    | some v =>
      match readReals cmd b s es with
      | .error r => .error r
      | .ok vs => .ok (v :: vs)

/-- The same for a complex buffer (R82; log 11). -/
def readComplexes (cmd : Instr) (b : Buffer) (s : State) : List Nat → Except Fault (List (Word × Word))
  | [] => .ok []
  | e :: es =>
    match s.complexAt b e with
    | none => .error (.unspecifiedRead cmd b e)
    | some z =>
      match readComplexes cmd b s es with
      | .error r => .error r
      | .ok zs => .ok (z :: zs)

/-- Writes real elements from index `start` on. -/
def writeReals (b : Buffer) (start : Nat) (vs : List Word) (s : State) : State :=
  { s with mem := s.mem.writeWords (b.addr start) vs }

/-- Writes complex elements from index `start` on, real part first (R123). -/
def writeComplexes (b : Buffer) (start : Nat) (zs : List (Word × Word)) (s : State) : State :=
  { s with mem := s.mem.writeWords (b.addr start) (zs.flatMap fun z => [z.1, z.2]) }

/-- Every element of every buffer becomes unspecified (R82, `undef`). -/
def undefBuffers (s : State) : State := { s with mem := [] }

/-! ### Completion -/

/-- `Fail(v, code)`, this hardware's trap entry (R404): it writes ERR_CODE, ERR_INFO and IRQ_STATUS.ERR and empties the
pending command, which clears BUSY; nothing else. There is no return instruction: the Host acknowledges with the W1C
write of IRQ_STATUS (R407, `ackIrq`). -/
def fail (v : Word) (e : CmdError) (s : State) : State :=
  { s with errCode := e.code, errInfo := v, irqErr := true, pending := none }

/-- `Succeed()` (R406). -/
def succeed (s : State) : State :=
  { s with errCode := 0x00#8, irqDone := true, pending := none }

/-! ### Checks -/

/-- A positive finite binary32: sign 0, exponent field not 0xFF, pattern not 0 (R64, R222). -/
def epsOk (e : Word) : Bool := decide (e.toNat ≠ 0 ∧ e.toNat < infMag)

/-- The checks of WS_INIT on the CFG values it reads, in order (R222). -/
def cfgError (b : Config.Build) (c : CfgRegs) : Option CmdError :=
  let W := c.winLen.toNat
  let H := c.hop.toNat
  let N := c.sigLen.toNat
  let P := W / 2
  if ¬ (W % 2 = 0 ∧ 2 ≤ W ∧ W ≤ b.wMax ∧ fftSupports b W = true) then some .badWinLen
  else if ¬ (1 ≤ H ∧ H ≤ W) then some .badHop
  else if ¬ (P + 1 ≤ N ∧ N ≤ b.nMax) then some .badSigLen
  else if ¬ (epsOk c.eps = true) then some .badEps
  else if b.nbMax < N / H + 1 then some .capacity
  else none

/-- The checks of WS_INIT (R222). -/
def wsInitError (s : State) : Option CmdError := cfgError s.build s.wsCfg

/-- The checks that follow the common ones, of the one command that has some (R402). -/
def ownError (cmd : Instr) (s : State) : Option CmdError :=
  if cmd = .wsInit then wsInitError s else none

/-- The frame operand is not below G.NB (R402). -/
def frameTooLarge (cmd : Instr) (s : State) : Bool :=
  match frameOperand cmd with
  | some f => decide (s.gNB ≤ f)
  | none => false

/-- The checks of a decoded command, in the order of R402; every one reads CSRs and the command only. -/
def commandError (cmd : Instr) (s : State) : Option CmdError :=
  if needsWs cmd && !s.wsValid then some .wsNotReady
  else if needsWin cmd && !s.winValid then some .winNotReady
  else if frameTooLarge cmd s then some .badFrame
  else ownError cmd s

/-- `Execute` of a decoded command (R402): the first failing check fails the command, else its body runs and the command
succeeds. A command that decoded has one word, its encoding, which Fail records (log 15). -/
def execute (cmd : Instr) (body : State → Except Fault State) (s : State) : Host.Outcome State Fault Refusal :=
  match commandError cmd s with
  | some e => .next (fail (encode cmd) e s)
  | none =>
    match body s with
    | .ok t => .next (succeed t)
    | .error r => .fault r

/-! ### Geometry and reset -/

/-- The registers WS_INIT latches from the CFG values it reads (R7, R223). -/
def latchCfg (c : CfgRegs) (s : State) : State :=
  { s with
    actWinLen := c.winLen
    actHop := c.hop
    actSigLen := c.sigLen
    actEps := c.eps
    padLen := BitVec.ofNat 32 (c.winLen.toNat / 2)
    paddedLen := BitVec.ofNat 32 (c.sigLen.toNat + 2 * (c.winLen.toNat / 2))
    nbFrames := BitVec.ofNat 32 (c.sigLen.toNat / c.hop.toNat + 1)
    nbBins := BitVec.ofNat 32 (c.winLen.toNat / 2 + 1)
    fwdScale := fwdScaleOf c.winLen.toNat
    invScale := invScaleOf c.winLen.toNat
    wsValid := true
    winValid := false }

/-- WS_INIT's latching of the geometry (R223). -/
def latchGeometry (s : State) : State := latchCfg s.wsCfg s

/-- Reset, hard or soft (R460 to R462): every register, buffer and the pending command take their reset values. The
model's own fields are not hardware state and stay (log 13). -/
def resetHardware (s : State) : State :=
  { State.resetOf s.build with turns := s.turns, response := s.response, draws := s.draws }

end Sys2Proof.Machine
end

