-- ==== Sys2Proof/Machine/Transform.lean ====
section
/-! DEFINITION. The arithmetic of the transforms on plain lists, over any NUM (00_scope.md R6, R10): the window and
normalisation arrays, reflect padding, the frame transforms and the overlap-add. The command bodies run these functions
at `binary32`; the exact-real reading runs the same functions at `exactReal` (Machine/ExactReal.lean). -/

namespace Sys2Proof.Machine

/-- NUM with the configuration functions that go with it (R6, R9, R10, R15, R16, R17). -/
structure NumSystem (α : Type) where
  /-- `x ⊕ y`. -/
  add : α → α → α
  /-- `x ⊖ y`. -/
  sub : α → α → α
  /-- `x ⊗ y`. -/
  mul : α → α → α
  /-- `x ⊘ y`. -/
  div : α → α → α
  /-- `num(n)`. -/
  ofNat : Nat → α
  /-- CF of a window length (R17). -/
  fwdScale : Nat → α
  /-- CI of a window length (R17). -/
  invScale : Nat → α
  /-- `WINDOW_IMPL(W, i)` (R16). -/
  window : Nat → Nat → α
  /-- Bin k of `FFT_FWD_IMPL(W, x)` (R12, R15). -/
  fftFwd : Nat → List α → Nat → α × α
  /-- Sample n of `FFT_INV_IMPL(W, X)` (R13, R15). -/
  fftInv : Nat → List (α × α) → Nat → α

/-- The half-spectrum with the imaginary parts of bins 0 and W/2 replaced by +0: they have no effect on the inverse
(R13, R312 corner case 3, D5; log 8). -/
def dropEdgeIm (W : Nat) (X : List (Word × Word)) : List (Word × Word) :=
  X.mapIdx fun k z => if k = 0 ∨ k = W / 2 then (z.1, 0#32) else z

/-- NUM of this hardware: IEEE 754 binary32 (R10) with the FFT unit's configuration functions (R15, log 7, 8) and the
default window (R16). -/
def binary32 : NumSystem Word where
  add := numAdd
  sub := numSub
  mul := numMul
  div := numDiv
  ofNat := numOfNat
  fwdScale := fwdScaleOf
  invScale := invScaleOf
  window := windowImpl
  fftFwd W x k := (Config.fftFwdRe W x k, Config.fftFwdIm W x k)
  fftInv W X n := Config.fftInv W (dropEdgeIm W X) n

/-- `binary32` with the window of a build (R6, R16). -/
def numOf (b : Config.Build) : NumSystem Word := { binary32 with window := windowOf b }

section
variable {α : Type} (A : NumSystem α)

/-- WINDOW of length W (R224). -/
def windowArray (W : Nat) : List α := (List.range W).map (A.window W)

/-- Adds `terms` into `acc` from position `start` on: the loop `acc[start + i] <- acc[start + i] ⊕ terms[i]`
(R225, R312). -/
def overlapAdd (acc : List α) (start : Nat) (terms : List α) : List α :=
  acc.take start ++ List.zipWith A.add (acc.drop start) terms ++ acc.drop (start + terms.length)

/-- NormGen: NORM of length L, the window squares added frame by frame in increasing f (R225). -/
def normArray (win : List α) (L H NB : Nat) : List α :=
  (List.range NB).foldl (fun acc f => overlapAdd A acc (f * H) (win.map fun w => A.mul w w))
    (List.replicate L (A.ofNat 0))

/-- The left pad x[P], ..., x[1] and the right pad x[N-2], ..., x[N-1-P] of a row x (R261). -/
def leftPad (P : Nat) (x : List α) : List α := ((x.drop 1).take P).reverse

@[inherit_doc leftPad]
def rightPad (P : Nat) (x : List α) : List α := ((x.drop (x.length - 1 - P)).take P).reverse

/-- PADDED after LOAD_ROW and REFLECT_PAD of a row x (R76, R265). -/
def paddedRow (P : Nat) (x : List α) : List α := leftPad P x ++ x ++ rightPad P x

/-- Scaling of a complex element by a NUM constant (R17). -/
def scale (c : α) (z : α × α) : α × α := (A.mul z.1 c, A.mul z.2 c)

/-- Step 3a of the forward transform: the windowed segment (R262). -/
def windowSegment (segment win : List α) : List α := List.zipWith A.mul segment win

/-- Steps 3b and 3c of the forward transform: the scaled half-spectrum of a windowed segment (R262). -/
def forwardSpectrum (W NBINS : Nat) (cf : α) (windowed : List α) : List (α × α) :=
  (List.range NBINS).map fun b => scale A cf (A.fftFwd W windowed b)

/-- Step 3a of the inverse transform: the frame scaled by CI (R312). -/
def unscaleFrame (ci : α) (frame : List (α × α)) : List (α × α) := frame.map (scale A ci)

/-- Step 3b of the inverse transform: the W samples of the inverse FFT (R312). -/
def inverseSamples (W : Nat) (X : List (α × α)) : List α := (List.range W).map (A.fftInv W X)

/-- `Den(k) = NORM[k] ⊕ EPS`, the window_sum_normalizer (R313). -/
def den (norm eps : α) : α := A.add norm eps

/-- One overlap-add term, `((WINDOWED[i] ⊗ WINDOW[i]) ⊘ num(W)) ⊘ Den(s + i)` (R11, R312). -/
def synthesisTerm (W : Nat) (eps : α) (sample w norm : α) : α :=
  A.div (A.div (A.mul sample w) (A.ofNat W)) (den A norm eps)

/-- Step 3c of the inverse transform: the terms of a frame, from its samples, the window and the NORM slice (R312). -/
def synthesisTerms (W : Nat) (eps : α) (samples win norm : List α) : List α :=
  List.zipWith (fun y wn => synthesisTerm A W eps y wn.1 wn.2) samples (win.zip norm)

/-- The forward pass of one channel as a function: the frames CFRAMES holds after LOAD_ROW, REFLECT_PAD and every
FRAME_FWD (R360). -/
def forwardPass (W H NB : Nat) (cf : α) (win x : List α) : List (List (α × α)) :=
  (List.range NB).map fun f =>
    forwardSpectrum A W (W / 2 + 1) cf
      (windowSegment A (((paddedRow (W / 2) x).drop (f * H)).take W) win)

/-- The accumulator after the frames `frames` have been added in increasing f (R312, R362). -/
def accumulateFrames (W H : Nat) (ci eps : α) (win norm : List α) (frames : List (List (α × α)))
    (acc : List α) : List α :=
  (List.range frames.length).foldl
    (fun acc f =>
      overlapAdd A acc (f * H)
        (synthesisTerms A W eps (inverseSamples A W (unscaleFrame A ci (frames.getD f []))) win
          ((norm.drop (f * H)).take W)))
    acc

/-- The inverse pass of one channel as a function: the row ROW_STORE writes (R362). -/
def inversePass (W H N : Nat) (ci eps : α) (win norm : List α) (frames : List (List (α × α))) : List α :=
  ((accumulateFrames A W H ci eps win norm frames
    (List.replicate (N + W) (A.ofNat 0))).drop (W / 2)).take N

end

end Sys2Proof.Machine
end

