-- ==== Sys2Proof/Machine/Istft.lean ====
section
/-! DEFINITION. The inverse micro-commands SPEC_LOAD, ACC_CLEAR, FRAME_INV and ROW_STORE (42_istft.md R310 to R314). -/

namespace Sys2Proof.Machine

/-- The SPEC elements SPEC_LOAD c reads, frame by frame and bin by bin (R310). -/
def State.frameMajor (s : State) (c : Nat) : List Nat :=
  (List.range s.gNB).flatMap fun f => (List.range s.gNBINS).map fun b => s.specIndex c b f

/-- The body of SPEC_LOAD c (R310): CFRAMES[f][b] <- SPEC[c][b][f]. -/
def specLoadBody (cmd : Instr) (c : Nat) (s : State) : Except Fault State := do
  let zs ← readComplexes cmd .spec s (s.frameMajor c)
  pure (writeComplexes .cframes 0 zs s)

/-- SPEC_LOAD c (R310). -/
def execSpecLoad (c : Nat) (s : State) : Host.Outcome State Fault Refusal :=
  execute (.specLoad c) (specLoadBody (.specLoad c) c) s

/-- The body of ACC_CLEAR (R311): OUTACC[k] <- num(0). -/
def accClearBody (s : State) : State :=
  writeReals .outacc 0 (List.replicate s.gL (numOfNat 0)) s

/-- ACC_CLEAR (R311). -/
def execAccClear (s : State) : Host.Outcome State Fault Refusal :=
  execute .accClear (fun t => .ok (accClearBody t)) s

/-- The three writes of FRAME_INV f (R312) from the frame, the accumulator slice, the window and the NORM slice: the frame
scaled in place, the raw inverse samples, and the accumulator with the frame's terms added. -/
def writeInverseFrame (f : Nat) (frame : List (Word × Word)) (acc win norm : List Word) (s : State) : State :=
  let X := unscaleFrame binary32 s.invScale frame
  let y := inverseSamples binary32 s.gW X
  let terms := synthesisTerms binary32 s.gW s.actEps y win norm
  writeReals .outacc (s.frameStart f) (List.zipWith numAdd acc terms)
    (writeReals .windowed 0 y (writeComplexes .cframes (s.cframeIndex f 0) X s))

/-- The body of FRAME_INV f (R312, R313). -/
def frameInvBody (cmd : Instr) (f : Nat) (s : State) : Except Fault State := do
  let frame ← readComplexes cmd .cframes s (indices (s.cframeIndex f 0) s.gNBINS)
  let acc ← readReals cmd .outacc s (indices (s.frameStart f) s.gW)
  let win ← readReals cmd .window s (indices 0 s.gW)
  let norm ← readReals cmd .norm s (indices (s.frameStart f) s.gW)
  pure (writeInverseFrame f frame acc win norm s)

/-- FRAME_INV f (R312). -/
def execFrameInv (f : Nat) (s : State) : Host.Outcome State Fault Refusal :=
  execute (.frameInv f) (frameInvBody (.frameInv f) f) s

/-- The body of ROW_STORE c (R314): WAVE[c][n] <- OUTACC[P + n]. -/
def rowStoreBody (cmd : Instr) (c : Nat) (s : State) : Except Fault State := do
  let row ← readReals cmd .outacc s (indices s.gP s.gN)
  pure (writeReals .wave (s.waveIndex c 0) row s)

/-- ROW_STORE c (R314). -/
def execRowStore (c : Nat) (s : State) : Host.Outcome State Fault Refusal :=
  execute (.rowStore c) (rowStoreBody (.rowStore c) c) s

end Sys2Proof.Machine
end

