-- ==== Sys2Proof/Machine/Stft.lean ====
section
/-! DEFINITION. The forward micro-commands LOAD_ROW, REFLECT_PAD, FRAME_FWD and SPEC_STORE (41_stft.md R260 to R263).
A body takes the command it runs under, which names an UnspecifiedRead. -/

namespace Sys2Proof.Machine

/-- The body of LOAD_ROW c (R260): PADDED[P + n] <- WAVE[c][n]. -/
def loadRowBody (cmd : Instr) (c : Nat) (s : State) : Except Fault State := do
  let row ← readReals cmd .wave s (indices (s.waveIndex c 0) s.gN)
  pure (writeReals .padded s.gP row s)

/-- LOAD_ROW c (R260). -/
def execLoadRow (c : Nat) (s : State) : Host.Outcome State Fault Refusal :=
  execute (.loadRow c) (loadRowBody (.loadRow c) c) s

/-- The four writes of REFLECT_PAD (R261) once the P samples inside each edge are read: both scratch vectors hold them
reversed, and the pads are copies of the scratch vectors. -/
def writePads (first last : List Word) (s : State) : State :=
  writeReals .padded (s.gP + s.gN) last.reverse
    (writeReals .padded 0 first.reverse
      (writeReals .padEnd 0 last.reverse
        (writeReals .padStart 0 first.reverse s)))

/-- The body of REFLECT_PAD (R261): reads PADDED[P + 1 + j] and PADDED[N - 1 + j]. -/
def reflectPadBody (cmd : Instr) (s : State) : Except Fault State := do
  let first ← readReals cmd .padded s (indices (s.gP + 1) s.gP)
  let last ← readReals cmd .padded s (indices (s.gN - 1) s.gP)
  pure (writePads first last s)

/-- REFLECT_PAD (R261). -/
def execReflectPad (s : State) : Host.Outcome State Fault Refusal :=
  execute .reflectPad (reflectPadBody .reflectPad) s

/-- The two writes of FRAME_FWD f (R262) from the segment of PADDED and the window. -/
def writeForwardFrame (f : Nat) (segment win : List Word) (s : State) : State :=
  writeComplexes .cframes (s.cframeIndex f 0)
    (forwardSpectrum binary32 s.gW s.gNBINS s.fwdScale (windowSegment binary32 segment win))
    (writeReals .windowed 0 (windowSegment binary32 segment win) s)

/-- The body of FRAME_FWD f (R262). -/
def frameFwdBody (cmd : Instr) (f : Nat) (s : State) : Except Fault State := do
  let segment ← readReals cmd .padded s (indices (s.frameStart f) s.gW)
  let win ← readReals cmd .window s (indices 0 s.gW)
  pure (writeForwardFrame f segment win s)

/-- FRAME_FWD f (R262). -/
def execFrameFwd (f : Nat) (s : State) : Host.Outcome State Fault Refusal :=
  execute (.frameFwd f) (frameFwdBody (.frameFwd f) f) s

/-- The CFRAMES elements SPEC_STORE reads, bin by bin and frame by frame (R263). -/
def State.binMajor (s : State) : List Nat :=
  (List.range s.gNBINS).flatMap fun b => (List.range s.gNB).map fun f => s.cframeIndex f b

/-- The body of SPEC_STORE c (R263): SPEC[c][b][f] <- CFRAMES[f][b]. -/
def specStoreBody (cmd : Instr) (c : Nat) (s : State) : Except Fault State := do
  let zs ← readComplexes cmd .cframes s s.binMajor
  pure (writeComplexes .spec (s.specIndex c 0 0) zs s)

/-- SPEC_STORE c (R263). -/
def execSpecStore (c : Nat) (s : State) : Host.Outcome State Fault Refusal :=
  execute (.specStore c) (specStoreBody (.specStore c) c) s

end Sys2Proof.Machine
end

