-- ==== Sys2Proof/Machine/Driver.lean ====
section
/-! DEFINITION. The channel driver commands STFT, STFT_ALL, ISTFT and ISTFT_ALL (43_channel_driver.md R360 to R363):
fixed sequences of micro-command bodies, run as one command. -/

namespace Sys2Proof.Machine

/-- `for f in [start, start + n): body f`, in increasing order (R11). -/
def forFrames (body : Nat → State → Except Fault State) : Nat → Nat → State → Except Fault State
  | _, 0, s => .ok s
  | start, n + 1, s =>
    match body start s with
    | .error r => .error r
    | .ok t => forFrames body (start + 1) n t

/-- The body of STFT c (R360). -/
def stftBody (cmd : Instr) (c : Nat) (s : State) : Except Fault State := do
  let s1 ← loadRowBody cmd c s
  let s2 ← reflectPadBody cmd s1
  let s3 ← forFrames (frameFwdBody cmd) 0 s.gNB s2
  specStoreBody cmd c s3

/-- STFT c (R360). -/
def execStft (c : Nat) (s : State) : Host.Outcome State Fault Refusal :=
  execute (.stft c) (stftBody (.stft c) c) s

/-- The body of STFT_ALL (R361): channel 0, then channel 1. -/
def stftAllBody (cmd : Instr) (s : State) : Except Fault State := do
  let s1 ← stftBody cmd 0 s
  stftBody cmd 1 s1

/-- STFT_ALL (R361). -/
def execStftAll (s : State) : Host.Outcome State Fault Refusal := execute .stftAll (stftAllBody .stftAll) s

/-- The body of ISTFT c (R362). -/
def istftBody (cmd : Instr) (c : Nat) (s : State) : Except Fault State := do
  let s1 ← specLoadBody cmd c s
  let s2 ← forFrames (frameInvBody cmd) 0 s.gNB (accClearBody s1)
  rowStoreBody cmd c s2

/-- ISTFT c (R362). -/
def execIstft (c : Nat) (s : State) : Host.Outcome State Fault Refusal :=
  execute (.istft c) (istftBody (.istft c) c) s

/-- The body of ISTFT_ALL (R363): channel 0, then channel 1. -/
def istftAllBody (cmd : Instr) (s : State) : Except Fault State := do
  let s1 ← istftBody cmd 0 s
  istftBody cmd 1 s1

/-- ISTFT_ALL (R363). -/
def execIstftAll (s : State) : Host.Outcome State Fault Refusal := execute .istftAll (istftAllBody .istftAll) s

end Sys2Proof.Machine
end

