-- ==== Sys2Proof/Machine/Setup.lean ====
section
/-! DEFINITION. The setup commands NOP, WS_INIT and WIN_GEN (40_setup.md R220 to R226). -/

namespace Sys2Proof.Machine

/-- NOP (R221): the empty body. -/
def execNop (s : State) : Host.Outcome State Fault Refusal := execute .nop (fun t => .ok t) s

/-- The body of WS_INIT (R223): latch the geometry, every buffer element becomes unspecified. -/
def wsInitBody (s : State) : State := undefBuffers (latchGeometry s)

/-- WS_INIT (R222, R223). -/
def execWsInit (s : State) : Host.Outcome State Fault Refusal := execute .wsInit (fun t => .ok (wsInitBody t)) s

/-- WINDOW of the active geometry (R224). -/
def State.windowArray (s : State) : List Word := Sys2Proof.Machine.windowArray (numOf s.build) s.gW

/-- NORM of the active geometry (R225). -/
def State.normArray (s : State) : List Word :=
  Sys2Proof.Machine.normArray binary32 s.windowArray s.gL s.gH s.gNB

/-- The body of WIN_GEN (R224 to R226). -/
def winGenBody (s : State) : State :=
  { writeReals .norm 0 s.normArray (writeReals .window 0 s.windowArray s) with winValid := true }

/-- WIN_GEN (R224 to R226). -/
def execWinGen (s : State) : Host.Outcome State Fault Refusal := execute .winGen (fun t => .ok (winGenBody t)) s

end Sys2Proof.Machine
end

