-- ==== Sys2Proof/Machine/Dispatch.lean ====
section
/-! DEFINITION. One arm per command: its meaning. -/

namespace Sys2Proof.Machine

def exec (i : Instr) (s : State) : Host.Outcome State Fault Refusal :=
  match i with
  | .nop => Sys2Proof.Machine.execNop s
  | .wsInit => Sys2Proof.Machine.execWsInit s
  | .winGen => Sys2Proof.Machine.execWinGen s
  | .loadRow c => Sys2Proof.Machine.execLoadRow c s
  | .reflectPad => Sys2Proof.Machine.execReflectPad s
  | .frameFwd f => Sys2Proof.Machine.execFrameFwd f s
  | .specStore c => Sys2Proof.Machine.execSpecStore c s
  | .stft c => Sys2Proof.Machine.execStft c s
  | .stftAll => Sys2Proof.Machine.execStftAll s
  | .specLoad c => Sys2Proof.Machine.execSpecLoad c s
  | .accClear => Sys2Proof.Machine.execAccClear s
  | .frameInv f => Sys2Proof.Machine.execFrameInv f s
  | .rowStore c => Sys2Proof.Machine.execRowStore c s
  | .istft c => Sys2Proof.Machine.execIstft c s
  | .istftAll => Sys2Proof.Machine.execIstftAll s

end Sys2Proof.Machine
end

