-- ==== Sys2Proof/Machine/HostPort.lean ====
section
/-! DEFINITION. The Host port: the CSR file (10_state.md R51 to R69), the buffer windows and the bus errors
(20_memory.md R121 to R134), and one Host transaction as a step. -/

namespace Sys2Proof.Machine

/-- The value of a CSR at a byte offset below 0x1000 (R51); a reserved offset reads 0 (R69), and so do CTRL and CMD
(R54, R60). -/
def csrRead (off : Nat) (s : State) : Word :=
  match off with
  | 0x000 => 0x53544654#32
  | 0x004 => 0x00070000#32
  | 0x00C => s.status
  | 0x010 => s.irqStatus
  | 0x014 => s.irqEn
  | 0x018 => BitVec.ofNat 32 s.errCode.toNat
  | 0x01C => s.errInfo
  | 0x030 => s.cfgWinLen
  | 0x034 => s.cfgHop
  | 0x038 => s.cfgSigLen
  | 0x03C => s.cfgEps
  | 0x040 => s.actWinLen
  | 0x044 => s.actHop
  | 0x048 => s.actSigLen
  | 0x04C => s.actEps
  | 0x050 => s.padLen
  | 0x054 => s.paddedLen
  | 0x058 => s.nbFrames
  | 0x05C => s.nbBins
  | 0x060 => s.fwdScale
  | 0x064 => s.invScale
  | 0x070 => BitVec.ofNat 32 s.build.wMax
  | 0x074 => BitVec.ofNat 32 s.build.nMax
  | 0x078 => BitVec.ofNat 32 s.build.nbMax
  | _ => 0x00000000#32

/-- The acceptance of a command word while idle (R60): it becomes the pending command, with the CFG values of
that moment (R474, log 24), which sets BUSY, and its OP field becomes LAST_OP. -/
def acceptCommand (v : Word) (s : State) : State :=
  { s with pending := some ⟨v, s.cfgRegs⟩, lastOp := v.extractLsb' 0 8 }

/-- The write of CTRL (R54): bit 0 = 1 is the soft reset. -/
def writeCtrl (v : Word) (s : State) : State := if v.getLsbD 0 then resetHardware s else s

/-- A write of a CSR at a byte offset below 0x1000 (R51): read-only and reserved ones ignore it (R69). -/
def csrWrite (off : Nat) (v : Word) (s : State) : State :=
  match off with
  | 0x008 => writeCtrl v s
  | 0x010 => ackIrq v s
  | 0x014 => setIrqEn v s
  | 0x020 => acceptCommand v s
  | 0x030 => { s with cfgWinLen := v }
  | 0x034 => { s with cfgHop := v }
  | 0x038 => { s with cfgSigLen := v }
  | 0x03C => { s with cfgEps := v }
  | _ => s

/-- The address of a transaction. -/
def BusReq.addr : BusReq → Nat
  | .read a _ => a.toNat
  | .write a _ _ => a.toNat

/-- How many bytes a transaction moves. -/
def BusReq.bytes : BusReq → Nat
  | .read _ n => n
  | .write _ n _ => n

/-- Whether a transaction is a write. -/
def BusReq.isWrite : BusReq → Bool
  | .read _ _ => false
  | .write _ _ _ => true

/-- `addr[31:28]` (R121). -/
def regionOf (a : Nat) : Nat := a / 2 ^ 28

/-- `addr[27:0]` (R121). -/
def offsetOf (a : Nat) : Nat := a % 2 ^ 28

/-- The bus errors of a buffer window: no geometry or out of range (R123), busy (R132), a write to an internal buffer
(R131). -/
def bufferError (b : Buffer) (off : Nat) (write : Bool) (s : State) : Bool :=
  !s.wsValid || decide (b.len s * b.elemSize ≤ off) || s.busy || (write && !b.hostWritable)

/-- The bus errors of the CSR region: an offset past the file (R122), a CMD write while busy (R60, R466). -/
def csrError (off : Nat) (write : Bool) (s : State) : Bool :=
  decide (0x1000 ≤ off) || (write && decide (off = 0x020) && s.busy)

/-- Whether a transaction is a bus error (R130): width and alignment (R129), then the region (R121). -/
def busError (r : BusReq) (s : State) : Bool :=
  decide (r.bytes ≠ 4) || decide (r.addr % 4 ≠ 0) ||
    (if regionOf r.addr = 0 then csrError (offsetOf r.addr) r.isWrite s
     else
      match bufferOfRegion (regionOf r.addr) with
      | some b => bufferError b (offsetOf r.addr) r.isWrite s
      | none => true)

/-- The port's answer to a transaction it accepts. -/
def respond (v : Word) (s : State) : State := { s with response := some ⟨false, v⟩ }

/-- The port's answer to a bus error: the error response with data 0, no other effect (R130, R411). -/
def respondError (s : State) : State := { s with response := some ⟨true, 0x00000000#32⟩ }

/-- A read of a buffer window: the word there, or an unconstrained draw where the element is unspecified (R82, I15;
log 10). -/
def readWindow (a : Nat) (s : State) : State :=
  match s.mem.word a with
  | some v => respond v s
  | none => respond (Config.hostDraw s.draws) { s with draws := s.draws + 1 }

/-- An accepted read (R134: no side effect). -/
def acceptRead (a : Nat) (s : State) : State :=
  if regionOf a = 0 then respond (csrRead (offsetOf a) s) s else readWindow a s

/-- An accepted write: of a CSR, or of the word of a buffer element (R124, R125). The answer comes after the write, also
after a soft reset (R54; log 13). -/
def acceptWrite (a : Nat) (v : Word) (s : State) : State :=
  if regionOf a = 0 then respond 0x00000000#32 (csrWrite (offsetOf a) v s)
  else respond 0x00000000#32 { s with mem := s.mem.writeWords a [v] }

/-- One Host transaction (R130, R133). -/
def transact (r : BusReq) (s : State) : State :=
  if busError r s then respondError s
  else
    match r with
    | .read a _ => acceptRead a.toNat s
    | .write a _ v => acceptWrite a.toNat v s

end Sys2Proof.Machine
end

