-- ==== Sys2Proof/Machine/Engine.lean ====
section
/-! DEFINITION. The Engine's step on the pending command (10_state.md R83, 60_exceptions.md R402), and the turns of the
two agents (20_memory.md R137, 70_reset_and_hazards.md R473). -/

namespace Sys2Proof.Machine

/-- `Execute(v)` (R402): a word that decodes to none fails with ILLEGAL_CMD (R174); a command runs its meaning. -/
def executeWord (v : Word) (s : State) : Host.Outcome State Fault Refusal :=
  match decode v with
  | .error _ => .next (fail v .illegalCmd s)
  | .ok i => exec i s

/-- The Engine's one enabled step, on the pending command; with none pending the Engine is idle and nothing changes
(R83, R463; log 2). -/
def engineStep (s : State) : Host.Outcome State Fault Refusal :=
  match s.pending with
  | none => .next s
  | some p => executeWord p.word s

/-- One turn of the machine (R137, R473). -/
def takeTurn (t : Turn) (s : State) : Host.Outcome State Fault Refusal :=
  match t with
  | .host r => .next (transact r s)
  | .engine => engineStep s
  | .hardReset => .next (resetHardware s)

/-- The command word that stands for an instruction of `nbits` bits `w` (R170). -/
def commandWord (nbits w : Nat) : Word := BitVec.ofNat 32 (w % 2 ^ nbits)

/-- Gives the Engine the next turn: with no turn to come it has it already. -/
def engineNext (turns : List Turn) : List Turn :=
  match turns with
  | [] => []
  | t :: ts => .engine :: t :: ts

end Sys2Proof.Machine
end

