-- ==== Sys2Proof/Machine/Step.lean ====
section
/-! DEFINITION. One step of the machine: the next turn, or the Engine's when no turn is listed (70_reset_and_hazards.md
R473; log 2), and the placing of a command as the one the next step runs. -/

namespace Sys2Proof.Machine

/-- One step: one Host transaction, one hard reset, or one whole Engine command (R137, R473). With no turn to come the
Engine moves, so a pending command is always executed in the end (R473). -/
def step (s : State) : Host.Outcome State Fault Refusal :=
  match s.turns with
  | [] => engineStep s
  | t :: ts => takeTurn t { s with turns := ts }

/-- `s` with a command word accepted as a CMD write accepts it (R60), and the Engine to move next: log 1. -/
def State.withFetchWord (s : State) (nbits w : Nat) : State :=
  { acceptCommand (commandWord nbits w) s with turns := engineNext s.turns }

end Sys2Proof.Machine
end

