-- ==== Sys2Proof/Machine/Assembler.lean ====
section
/-! DEFINITION. The command syntax of the assembler (30_encoding.md R177), on a line and on its mnemonic and
operands. -/

namespace Sys2Proof.Machine

/-- The value of a decimal digit, or of a hexadecimal one when `base` is 16. -/
def digitValue (base : Nat) (ch : Char) : Option Nat :=
  let n := ch.toNat
  let v :=
    if 48 ≤ n ∧ n ≤ 57 then n - 48
    else if 65 ≤ n ∧ n ≤ 70 then n - 55
    else if 97 ≤ n ∧ n ≤ 102 then n - 87
    else 16
  if v < base then some v else none

/-- The natural a non-empty list of digits spells, on top of `acc`. -/
def digitsValue (base : Nat) : Nat → List Char → Option Nat
  | acc, [] => some acc
  | acc, ch :: cs =>
    match digitValue base ch with
    | some v => digitsValue base (acc * base + v) cs
    | none => none

/-- A decimal or `0x` hexadecimal natural (R177). -/
def numeral : List Char → Option Nat
  | [] => none
  | ['0', 'x'] => none
  | '0' :: 'x' :: cs => digitsValue 16 0 cs
  | cs => digitsValue 10 0 cs

/-- The channel operand: the digit 0 or 1 (R177). -/
def channelOperand : List Char → Option Nat
  | ['0'] => some 0
  | ['1'] => some 1
  | _ => none

/-- The operand of `.word`: 0x and eight hexadecimal digits (R177). -/
def wordOperand (cs : List Char) : Option Nat :=
  match cs with
  | '0' :: 'x' :: ds => if ds.length = 8 then digitsValue 16 0 ds else none
  | _ => none

/-- The word of a mnemonic's row with its operands (R177): none for a missing or extra operand or one out of range. -/
def assembleRow (r : OpRow) (operands : List (List Char)) : Option Word :=
  match r.cls, operands with
  | .z, [] => some r.pattern
  | .c, [x] =>
    match channelOperand x with
    | some c => some (BitVec.ofNat 32 (r.pattern.toNat + 256 * c))
    | none => none
  | .f, [x] =>
    match numeral x with
    | some f => if f < 2 ^ 23 then some (BitVec.ofNat 32 (r.pattern.toNat + 512 * f)) else none
    | none => none
  | _, _ => none

/-- The row of a mnemonic (R173). -/
def rowOf (mnemonic : List Char) : Option OpRow := opRows.find? fun r => r.mnemonic.toList = mnemonic

/-- Assembles a line (R177): a command of the map, or `.word 0xHHHHHHHH`; anything else is refused. -/
def assemble (mnemonic : List Char) (operands : List (List Char)) : Option Word :=
  if mnemonic = ".word".toList then
    match operands with
    | [x] => (wordOperand x).map (BitVec.ofNat 32)
    | _ => none
  else
    match rowOf mnemonic with
    | some r => assembleRow r operands
    | none => none

/-- The words of a line, cut at spaces; `cur` is the word being read, backwards. -/
def splitWords : List Char → List Char → List (List Char)
  | cur, [] => if cur.isEmpty then [] else [cur.reverse]
  | cur, ch :: cs =>
    if ch = ' ' then
      if cur.isEmpty then splitWords [] cs else cur.reverse :: splitWords [] cs
    else splitWords (ch :: cur) cs

/-- Assembles a line of text: the mnemonic followed by its operand, if any (R177). -/
def assembleLine (line : String) : Option Word :=
  match splitWords [] line.toList with
  | [] => none
  | m :: ops => assemble m ops

end Sys2Proof.Machine
end

