-- ==== Sys2Proof/Machine/ExactReal.lean ====
section
/-! DEFINITION. The exact-real reading of NUM (00_scope.md R10, R12, R13, R16, R17): the reference FFT pair, the reference
window and the exact scales over the real numbers. No step of the machine uses it; the statements of the round-trip and
zero laws (42_istft.md R315, R316) run the functions of Machine/Transform.lean at it. -/

namespace Sys2Proof.Machine

/-- Real part of bin k of FFT_FWD(W, x) = Σ x[n]·exp(-2πi·k·n/W) (R12). -/
noncomputable def refForwardRe (W : Nat) (x : List ℝ) (k : Nat) : ℝ :=
  ∑ n ∈ Finset.range W, x.getD n 0 * Real.cos (2 * Real.pi * k * n / W)

/-- Imaginary part of bin k of FFT_FWD(W, x) (R12). -/
noncomputable def refForwardIm (W : Nat) (x : List ℝ) (k : Nat) : ℝ :=
  -∑ n ∈ Finset.range W, x.getD n 0 * Real.sin (2 * Real.pi * k * n / W)

/-- Re(X[k]·exp(+2πi·k·n/W)) (R13). -/
noncomputable def refInverseTerm (W : Nat) (X : List (ℝ × ℝ)) (n k : Nat) : ℝ :=
  (X.getD k (0, 0)).1 * Real.cos (2 * Real.pi * k * n / W)
    - (X.getD k (0, 0)).2 * Real.sin (2 * Real.pi * k * n / W)

/-- FFT_INV(W, X)[n] (R13): the imaginary parts of bins 0 and W/2 do not occur in it. -/
noncomputable def refInverse (W : Nat) (X : List (ℝ × ℝ)) (n : Nat) : ℝ :=
  (X.getD 0 (0, 0)).1 + (-1) ^ n * (X.getD (W / 2) (0, 0)).1
    + 2 * ∑ k ∈ Finset.Ico 1 (W / 2), refInverseTerm W X n k

/-- WINDOW_REF(W, i) = 0.5 - 0.5·cos(2π·i/W) (R16). -/
noncomputable def refWindow (W i : Nat) : ℝ := 1 / 2 - 1 / 2 * Real.cos (2 * Real.pi * i / W)

/-- NUM as exact real arithmetic (R10). -/
noncomputable def exactReal : NumSystem ℝ where
  add x y := x + y
  sub x y := x - y
  mul x y := x * y
  div x y := x / y
  ofNat n := n
  fwdScale W := 1 / Real.sqrt W
  invScale W := Real.sqrt W
  window := refWindow
  fftFwd W x k := (refForwardRe W x k, refForwardIm W x k)
  fftInv := refInverse

/-- The real number a finite binary32 pattern stands for (R10, R65). -/
noncomputable def realOfWord (x : Word) : ℝ := (floatInt x : ℝ) / 2 ^ 149

/-- The finite word v is a binary32 nearest to the real r: no finite word is nearer (R9, R10). -/
def IsNearest (v : Word) (r : ℝ) : Prop :=
  magBits v < infMag ∧ ∀ u : Word, magBits u < infMag → |realOfWord v - r| ≤ |realOfWord u - r|

/-- v is nearest to r, and the even one of two nearest (R10). -/
def IsNearestEven (v : Word) (r : ℝ) : Prop :=
  IsNearest v r ∧ ∀ u : Word, magBits u < infMag → |realOfWord u - r| = |realOfWord v - r| →
    magBits u ≠ magBits v → magBits v % 2 = 0

/-- v is the correct rounding of the exact result r (R10): finite and nearest below half an ulp past the largest finite
value, an infinity of r's sign from there on (the overflow threshold is IEEE 754's: log 23). -/
def IsRounded (v : Word) (r : ℝ) : Prop :=
  (|r| < (2 ^ 25 - 1) * 2 ^ 103 → IsNearestEven v r) ∧
  ((2 ^ 25 - 1) * 2 ^ 103 ≤ |r| → isInf v = true ∧ (signBit v = true ↔ r < 0))

end Sys2Proof.Machine
end

