-- ==== Sys2Proof/Machine/HostProgram.lean ====
section
/-! DEFINITION. Host programs (30_encoding.md R178) and the pseudo-operations (R179), as the turns they stand for. They
are Host-side notation: none is a command word. -/

namespace Sys2Proof.Machine

/-- The byte offsets of the CSRs a program names (R51). -/
def csrStatus : Nat := 0x00C
@[inherit_doc csrStatus]
def csrIrqStatus : Nat := 0x010
@[inherit_doc csrStatus]
def csrIrqEn : Nat := 0x014
@[inherit_doc csrStatus]
def csrCmd : Nat := 0x020
@[inherit_doc csrStatus]
def csrCfgWinLen : Nat := 0x030
@[inherit_doc csrStatus]
def csrCfgHop : Nat := 0x034
@[inherit_doc csrStatus]
def csrCfgSigLen : Nat := 0x038
@[inherit_doc csrStatus]
def csrCfgEps : Nat := 0x03C

/-- `wr NAME, v` and `wr REGION[index], v`: a 32-bit write at a port address (R129, R178). -/
def wr (a : Nat) (v : Word) : List Turn := [.host (.write (BitVec.ofNat 32 a) 4 v)]

/-- `rd NAME` and `rd REGION[index]`: a 32-bit read at a port address (R129, R178). -/
def rd (a : Nat) : List Turn := [.host (.read (BitVec.ofNat 32 a) 4)]

/-- `cmd <command>` (R178). -/
def cmdTurns (i : Instr) : List Turn := wr csrCmd (encode i)

/-- The CSRs by the names a program uses (R51, R178). -/
def csrNames : List (String × Nat) := [
  ("ID", 0x000), ("VERSION", 0x004), ("CTRL", 0x008), ("STATUS", 0x00C), ("IRQ_STATUS", 0x010), ("IRQ_EN", 0x014),
  ("ERR_CODE", 0x018), ("ERR_INFO", 0x01C), ("CMD", 0x020), ("CFG_WIN_LEN", 0x030), ("CFG_HOP", 0x034),
  ("CFG_SIG_LEN", 0x038), ("CFG_EPS", 0x03C), ("ACT_WIN_LEN", 0x040), ("ACT_HOP", 0x044), ("ACT_SIG_LEN", 0x048),
  ("ACT_EPS", 0x04C), ("PAD_LEN", 0x050), ("PADDED_LEN", 0x054), ("NB_FRAMES", 0x058), ("NB_BINS", 0x05C),
  ("FWD_SCALE", 0x060), ("INV_SCALE", 0x064), ("CAP_WIN_LEN", 0x070), ("CAP_SIG_LEN", 0x074), ("CAP_FRAMES", 0x078)]

/-- `rd NAME`; none for a name R51 does not list. -/
def rdNamed (name : String) : Option (List Turn) := (csrNames.find? fun q => q.1 = name).map fun q => rd q.2

/-- `wr NAME, v`; none for a name R51 does not list. -/
def wrNamed (name : String) (v : Word) : Option (List Turn) :=
  (csrNames.find? fun q => q.1 = name).map fun q => wr q.2 v

/-- The port address of `WAVE[c][n]` (R124, R178) under the geometry of `s`. -/
def waveAddr (s : State) (c n : Nat) : Nat := Buffer.wave.addr (s.waveIndex c n)

/-- The port address of `SPEC[c][b][f].re`, or of its `.im` (R125, R178). -/
def specAddr (s : State) (c b f : Nat) (im : Bool) : Nat :=
  Buffer.spec.addr (s.specIndex c b f) + if im then 4 else 0

/-- The port address of `CFRAMES[f][b].re`, or of its `.im` (R126, R178). -/
def cframeAddr (s : State) (f b : Nat) (im : Bool) : Nat :=
  Buffer.cframes.addr (s.cframeIndex f b) + if im then 4 else 0

/-- `wait` (R178): the Engine takes its turn, and the STATUS read that then finds BUSY = 0 ends the loop (R473; log 21). -/
def waitTurns : List Turn := .engine :: rd csrStatus

/-- `run <command>` (R179). -/
def runCmd (i : Instr) : List Turn := cmdTurns i ++ waitTurns

/-- `setup W, H, N` (R179). -/
def setupTurns (W H N : Nat) : List Turn :=
  wr csrCfgWinLen (BitVec.ofNat 32 W) ++ wr csrCfgHop (BitVec.ofNat 32 H) ++ wr csrCfgSigLen (BitVec.ofNat 32 N) ++
    runCmd .wsInit ++ runCmd .winGen

/-- `setup W, H, N, E` (R179). -/
def setupTurnsEps (W H N : Nat) (E : Word) : List Turn := wr csrCfgEps E ++ setupTurns W H N

/-- `forward` (R179). -/
def forwardTurns : List Turn := runCmd .stftAll

/-- `inverse` (R179). -/
def inverseTurns : List Turn := runCmd .istftAll

/-- `ack` (R179). -/
def ackTurns : List Turn := wr csrIrqStatus 0x00000003#32

/-- The commands of `stft_steps c` (R179). -/
def stftSteps (c NB : Nat) : List Instr :=
  [.loadRow c, .reflectPad] ++ (List.range NB).map Instr.frameFwd ++ [.specStore c]

/-- The commands of `istft_steps c` (R179). -/
def istftSteps (c NB : Nat) : List Instr :=
  [.specLoad c, .accClear] ++ (List.range NB).map Instr.frameInv ++ [.rowStore c]

/-- `run` of each command of a list (R179). -/
def runAll (is : List Instr) : List Turn := is.flatMap runCmd

/-- The meanings of a list of commands one after the other, stopping at the first that does not answer next. -/
def execAll : List Instr → State → Host.Outcome State Fault Refusal
  | [], s => .next s
  | i :: is, s =>
    match exec i s with
    | .next t => execAll is t
    | .fault r => .fault r
    | .refused r => .refused r

end Sys2Proof.Machine
end

