-- ==== Sys2Proof/Safety.lean ====
section
/-! DEFINITION. The terms the statements use: what a buffer holds, what a step leaves alone, and the invariants of the
machine. -/

namespace Sys2Proof.Machine

/-- The buffer holds the real values `x` from element `start` on. -/
abbrev State.ReadsAs (s : State) (b : Buffer) (start : Nat) (x : List Word) : Prop :=
  ∀ i, i < x.length → s.realAt b (start + i) = x[i]?

/-- The buffer holds the complex values `z` from element `start` on. -/
abbrev State.ReadsComplexAs (s : State) (b : Buffer) (start : Nat) (z : List (Word × Word)) : Prop :=
  ∀ i, i < z.length → s.complexAt b (start + i) = z[i]?

/-- A port address of elements `[start, start + n)` of a buffer. -/
abbrev Buffer.Covers (b : Buffer) (start n a : Nat) : Prop :=
  b.addr start ≤ a ∧ a < b.addr (start + n)

/-- A port address of the buffer's active elements. -/
abbrev State.InBuffer (s : State) (b : Buffer) (a : Nat) : Prop := b.Covers 0 (b.len s) a

/-- The command completed successfully and wrote nothing outside the buffers' storage but the completion registers of
R406: every CSR field, flag and model field is as before. -/
abbrev Completed (s t : State) : Prop := t = { succeed s with mem := t.mem }

/-- R70, first two clauses (the third, BUSY exactly when a command is pending, holds by definition, log 3). -/
abbrev State.FlagsCoherent (s : State) : Prop :=
  (s.winValid = true → s.wsValid = true) ∧
  (s.wsValid = false →
    s.actWinLen = 0#32 ∧ s.actHop = 0#32 ∧ s.actSigLen = 0#32 ∧ s.actEps = 0#32 ∧ s.padLen = 0#32 ∧
    s.paddedLen = 0#32 ∧ s.nbFrames = 0#32 ∧ s.nbBins = 0#32 ∧ s.fwdScale = 0#32 ∧ s.invScale = 0#32)

/-- A build the spec allows: SPEC and CFRAMES fit their windows (R6), and so do the real buffers, or an element would have
no address (20_memory.md R121, R123); a window table holds finite values, one for each index (log 4). -/
abbrev BuildLegal (b : Config.Build) : Prop :=
  b.nbMax ≤ 2 ^ 23 ∧ 16 * b.nbMax * (b.wMax / 2 + 1) ≤ 2 ^ 28 ∧ 8 * b.nMax ≤ 2 ^ 28 ∧
  4 * (b.nMax + b.wMax) ≤ 2 ^ 28 ∧ ∀ t ∈ b.windows, t.2.length = t.1 ∧ ∀ w ∈ t.2, magBits w < infMag

/-- The build is legal, and a latched geometry is one WS_INIT accepts (R222) with the derived registers of R7 and R17. -/
abbrev State.GeometryLegal (s : State) : Prop :=
  BuildLegal s.build ∧ (s.wsValid = true →
    (s.gW % 2 = 0 ∧ 2 ≤ s.gW ∧ s.gW ≤ s.build.wMax ∧ fftSupports s.build s.gW = true) ∧
    (1 ≤ s.gH ∧ s.gH ≤ s.gW) ∧
    (s.gW / 2 + 1 ≤ s.gN ∧ s.gN ≤ s.build.nMax) ∧
    epsOk s.actEps = true ∧
    s.gP = s.gW / 2 ∧ s.gL = s.gN + 2 * s.gP ∧ s.gNB = s.gN / s.gH + 1 ∧ s.gNBINS = s.gP + 1 ∧
    s.gNB ≤ s.build.nbMax ∧
    s.fwdScale = fwdScaleOf s.gW ∧ s.invScale = invScaleOf s.gW)

/-- The buffers' storage is in its canonical form. -/
abbrev State.MemCanonical (s : State) : Prop := Memory.wf s.mem = true

/-- Every stored byte belongs to an active element of a buffer. -/
abbrev State.StoredInBuffers (s : State) : Prop :=
  ∀ c ∈ s.mem, s.wsValid = true ∧
    (s.InBuffer .wave c.1 ∨ s.InBuffer .spec c.1 ∨ s.InBuffer .window c.1 ∨ s.InBuffer .norm c.1 ∨
      s.InBuffer .padded c.1 ∨ s.InBuffer .padStart c.1 ∨ s.InBuffer .padEnd c.1 ∨ s.InBuffer .windowed c.1 ∨
      s.InBuffer .cframes c.1 ∨ s.InBuffer .outacc c.1)

/-- While WIN_VALID = 1, WINDOW and NORM hold exactly the values WIN_GEN computes for the active geometry (R226). -/
abbrev State.ArraysValid (s : State) : Prop :=
  s.winValid = true → s.ReadsAs .window 0 s.windowArray ∧ s.ReadsAs .norm 0 s.normArray

/-- Every active element of every buffer holds a value (R82). -/
abbrev State.AllSpecified (s : State) : Prop :=
  ∀ b : Buffer, ∀ a, s.InBuffer b a → (s.byteAt a).isSome = true

/-- The invariant of the machine: R70, a legal build and geometry, canonical storage inside the buffers, valid arrays. -/
abbrev State.Inv (s : State) : Prop :=
  s.FlagsCoherent ∧ s.GeometryLegal ∧ s.MemCanonical ∧ s.StoredInBuffers ∧ s.ArraysValid

/-- Two states of one build with the same active geometry registers (R65 to R67). -/
abbrev SameGeometry (s t : State) : Prop :=
  t.actWinLen = s.actWinLen ∧ t.actHop = s.actHop ∧ t.actSigLen = s.actSigLen ∧ t.actEps = s.actEps ∧
  t.padLen = s.padLen ∧ t.paddedLen = s.paddedLen ∧ t.nbFrames = s.nbFrames ∧ t.nbBins = s.nbBins ∧
  t.fwdScale = s.fwdScale ∧ t.invScale = s.invScale ∧ t.build = s.build

/-- The frames of channel c that SPEC holds. -/
abbrev SpecHolds (s : State) (c : Nat) (frames : List (List (Word × Word))) : Prop :=
  frames.length = s.gNB ∧ (∀ fr ∈ frames, fr.length = s.gNBINS) ∧
  ∀ f b, f < s.gNB → b < s.gNBINS →
    s.complexAt .spec ((c * s.gNBINS + b) * s.gNB + f) = (frames[f]?.bind fun fr => fr[b]?)

/-- The turn the next step takes (log 2). -/
def State.nextTurn (s : State) : Turn :=
  match s.turns with
  | [] => .engine
  | t :: _ => t

/-- A turn that resets: the hard reset, or a write of CTRL with bit 0 set (R460). -/
def Turn.isReset : Turn → Bool
  | .host (.read _ _) => false
  | .host (.write a _ v) => decide (a = 0x00000008#32) && v.getLsbD 0
  | .engine => false
  | .hardReset => true

/-- The next step is the Engine's, on a pending word that decodes to this command (R83). -/
abbrev State.Runs (s : State) (i : Instr) : Prop :=
  s.nextTurn = .engine ∧ ∃ p, s.pending = some p ∧ decode p.word = .ok i

/-- A safe run: an outcome that is no fault and no refusal. -/
def safeOutcome (o : Host.Outcome State Fault Refusal) : Prop := ∃ t, o = .next t

end Sys2Proof.Machine
end

