-- ==== Sys2Proof/Certificates/Slice0/Obligations.lean ====
section
/-! DEFINITION. The statements for the provers. Each docstring names the rule of spec/ it rests on. -/

open Sys2Proof Sys2Proof.Machine

/-! ### Encoding -/

/-- Decoding the word of a well-formed command gives the command back (30_encoding.md R170 to R174). -/
def Obligations.DecodeInvertsEncode : Prop :=
  ∀ i : Instr, i.wellFormed = true → decode (encode i) = .ok i

/-- A word that decodes is the encoding of its command, whose operands fit their fields (R172, R174): no two words decode
to one command. -/
def Obligations.EncodeInvertsDecode : Prop :=
  ∀ (v : Word) (i : Instr), decode v = .ok i → i.wellFormed = true ∧ encode i = v

/-- Decoding is the match and mask rows of the opcode map (R174): a word decodes exactly when a row covers it, to the
command of that row with c = v[8] or f = v[31:9], and at most one row covers it. -/
def Obligations.DecodeFollowsOpcodeMap : Prop :=
  ∀ v : Word,
    (∀ i, decode v = .ok i → ∃ r ∈ opRows, r.covers v = true ∧ r.mnemonic = mnemonicOf i ∧
      (r.cls = .c → chField i = (v.extractLsb' 8 1).toNat) ∧
      (r.cls = .f → argField i = (v.extractLsb' 9 23).toNat)) ∧
    (∀ r ∈ opRows, r.covers v = true → ∃ i, decode v = .ok i) ∧
    (∀ r ∈ opRows, ∀ q ∈ opRows, r.covers v = true → q.covers v = true → r = q)

/-- Words written out from the encoding examples of R180, legal and illegal. -/
def Obligations.EncodingExamplesDecode : Prop :=
  decode 0x00000001#32 = .ok .wsInit ∧ decode 0x00000002#32 = .ok .winGen ∧
  decode 0x00000110#32 = .ok (.loadRow 1) ∧ decode 0x00000612#32 = .ok (.frameFwd 3) ∧
  decode 0x00000118#32 = .ok (.stft 1) ∧ decode 0x00000422#32 = .ok (.frameInv 2) ∧
  decode 0xFFFFFE22#32 = .ok (.frameInv 0x7FFFFF) ∧ decode 0x00000029#32 = .ok .istftAll ∧
  decode 0x00000003#32 = .error (.unassignedOp 3) ∧ decode 0x00000100#32 = .error (.mustBeZero 0) ∧
  decode 0x00000210#32 = .error (.mustBeZero 0x10) ∧ decode 0x00000112#32 = .error (.mustBeZero 0x12)

/-- The assembler (R177): class Z takes no operand; class C takes the single digit 0 or 1 and nothing else; class F takes one
numeral below 2^23 and nothing else; each then gives the encoder's word. `.word` takes 0x and eight hexadecimal digits.
Every other operand, a missing or an extra one, and an unknown mnemonic are refused. -/
def Obligations.AssemblerAgreesWithEncoder : Prop :=
  (∀ i ∈ [Instr.nop, .wsInit, .winGen, .reflectPad, .stftAll, .accClear, .istftAll],
    assemble (mnemonicOf i).toList [] = some (encode i) ∧ ∀ x xs, assemble (mnemonicOf i).toList (x :: xs) = none) ∧
  (∀ c, c < 2 → ∀ i ∈ [Instr.loadRow c, .specStore c, .stft c, .specLoad c, .rowStore c, .istft c],
    assemble (mnemonicOf i).toList [[if c = 0 then '0' else '1']] = some (encode i) ∧
      assemble (mnemonicOf i).toList [] = none ∧
      (∀ x, x ≠ ['0'] → x ≠ ['1'] → assemble (mnemonicOf i).toList [x] = none) ∧
      ∀ x y xs, assemble (mnemonicOf i).toList (x :: y :: xs) = none) ∧
  (∀ f, ∀ i ∈ [Instr.frameFwd f, .frameInv f],
    (∀ x, numeral x = some f → assemble (mnemonicOf i).toList [x] = (if f < 2 ^ 23 then some (encode i) else none)) ∧
      (∀ x, numeral x = none → assemble (mnemonicOf i).toList [x] = none) ∧
      assemble (mnemonicOf i).toList [] = none ∧
      ∀ x y xs, assemble (mnemonicOf i).toList (x :: y :: xs) = none) ∧
  ((∀ ds v, ds.length = 8 → digitsValue 16 0 ds = some v →
      assemble ".word".toList ['0' :: 'x' :: ds] = some (BitVec.ofNat 32 v)) ∧
    (∀ x, wordOperand x = none → assemble ".word".toList [x] = none) ∧
    assemble ".word".toList [] = none ∧ ∀ x y xs, assemble ".word".toList (x :: y :: xs) = none) ∧
  (∀ m ops, m ≠ ".word".toList → (∀ i, m ≠ (mnemonicOf i).toList) → assemble m ops = none)

/-! ### The step, the checks and completion -/

/-- A step whose turn is the Engine's runs the decoded pending command, and nothing else (10_state.md R83, 60_exceptions.md
R402); the turn, the model's own, is used up (log 2). -/
def Obligations.StepRunsDecodedCommand : Prop :=
  ∀ (s : State) (p : Pending) (i : Instr), s.pending = some p → decode p.word = .ok i →
    (s.turns = [] → step s = exec i s) ∧
    (∀ ts, s.turns = .engine :: ts → step s = exec i { s with turns := ts })

/-- A pending word that decodes to none fails with ILLEGAL_CMD whatever the flags are, and changes nothing but the
completion registers (R174, R402, R403, R404). -/
def Obligations.IllegalWordFails : Prop :=
  ∀ (s : State) (p : Pending), s.pending = some p → (∀ i, decode p.word ≠ .ok i) → s.turns = [] →
    step s = .next { s with errCode := 0x01#8, errInfo := p.word, irqErr := true, pending := none }

/-- The common checks in their order, with the columns of R173 (R402, R403): WS_NOT_READY, then WIN_NOT_READY, then
BAD_FRAME. ERR_INFO takes the command's encoding, which is the pending word; for operands that fit no field, which no word
gives, that is the model's (log 15). -/
def Obligations.CommonChecksInOrder : Prop :=
  (∀ (i : Instr) (s : State), i ≠ .nop → i ≠ .wsInit → s.wsValid = false →
    exec i s = .next { s with errCode := 0x02#8, errInfo := encode i, irqErr := true, pending := none }) ∧
  (∀ (i : Instr) (s : State) (c f : Nat),
    i ∈ [Instr.frameFwd f, .frameInv f, .stft c, .stftAll, .istft c, .istftAll] →
    s.wsValid = true → s.winValid = false →
    exec i s = .next { s with errCode := 0x03#8, errInfo := encode i, irqErr := true, pending := none }) ∧
  (∀ (i : Instr) (s : State) (f : Nat), i ∈ [Instr.frameFwd f, .frameInv f] →
    s.wsValid = true → s.winValid = true → s.nbFrames.toNat ≤ f →
    exec i s = .next { s with errCode := 0x04#8, errInfo := encode i, irqErr := true, pending := none })

/-- The checks of WS_INIT in their order; a failing WS_INIT changes only the completion registers (40_setup.md R222). The
build parameters are those of the state's build (R6, log 4); the CFG values are those the pending word was accepted with
(log 24). -/
def Obligations.WsInitChecksInOrder : Prop :=
  ∀ (s : State) (W H N : Nat) (E : Word),
    s.wsCfg.winLen.toNat = W → s.wsCfg.hop.toNat = H → s.wsCfg.sigLen.toNat = N → s.wsCfg.eps = E →
    let winOk := W % 2 = 0 ∧ 2 ≤ W ∧ W ≤ s.build.wMax ∧ fftSupports s.build W = true
    let hopOk := 1 ≤ H ∧ H ≤ W
    let sigOk := W / 2 + 1 ≤ N ∧ N ≤ s.build.nMax
    let epsGood := E.getLsbD 31 = false ∧ E.extractLsb' 23 8 ≠ 0xFF#8 ∧ E ≠ 0#32
    let failed := fun code : BitVec 8 =>
      exec .wsInit s =
        .next { s with errCode := code, errInfo := 0x00000001#32, irqErr := true, pending := none }
    (¬ winOk → failed 0x10#8) ∧
    (winOk → ¬ hopOk → failed 0x11#8) ∧
    (winOk → hopOk → ¬ sigOk → failed 0x12#8) ∧
    (winOk → hopOk → sigOk → ¬ epsGood → failed 0x13#8) ∧
    (winOk → hopOk → sigOk → epsGood → s.build.nbMax < N / H + 1 → failed 0x14#8)

/-- `Succeed()`: a command whose checks all pass and which answers next leaves ERR_CODE 0, DONE 1, nothing pending and
BUSY 0, and ERR_INFO as it was (60_exceptions.md R406). -/
def Obligations.SuccessCompletesOnce : Prop :=
  ∀ (i : Instr) (s t : State), commandError i s = none → exec i s = .next t →
    t.errCode = 0x00#8 ∧ t.irqDone = true ∧ t.pending = none ∧ t.busy = false ∧ t.errInfo = s.errInfo ∧
    t.irqErr = s.irqErr

/-- No partial results: a command that answers next either failed, and then only ERR_CODE, ERR_INFO, IRQ_STATUS.ERR and
the pending command changed, or succeeded (R404, R405). ERR_INFO takes the command's encoding, which is the pending word (log 15). -/
def Obligations.FailureIsPrecise : Prop :=
  ∀ (i : Instr) (s t : State), exec i s = .next t →
    (∃ e : CmdError, commandError i s = some e ∧
      t = { s with errCode := e.code, errInfo := encode i, irqErr := true, pending := none }) ∨
    (commandError i s = none ∧ t.errCode = 0x00#8 ∧ t.irqDone = true ∧ t.pending = none)

/-- What no command ever writes: the configuration registers, the interrupt enables and LAST_OP, and the model's own
fields, the build among them (R57, R61 to R64, R404, R406). A Host write of a configuration register stores its word, whether
or not a command is pending, and changes nothing else (R61 to R64, R134, R470); the answer is the model's field (log 13). -/
def Obligations.CommandsLeaveConfigurationAlone : Prop :=
  (∀ (i : Instr) (s t : State), exec i s = .next t →
    t.cfgWinLen = s.cfgWinLen ∧ t.cfgHop = s.cfgHop ∧ t.cfgSigLen = s.cfgSigLen ∧ t.cfgEps = s.cfgEps ∧
    t.doneEn = s.doneEn ∧ t.errEn = s.errEn ∧ t.lastOp = s.lastOp ∧
    t.turns = s.turns ∧ t.response = s.response ∧ t.draws = s.draws ∧ t.build = s.build) ∧
  (∀ (v : Word) (s : State),
    transact (.write 0x00000030#32 4 v) s = { s with cfgWinLen := v, response := some ⟨false, 0x00000000#32⟩ } ∧
    transact (.write 0x00000034#32 4 v) s = { s with cfgHop := v, response := some ⟨false, 0x00000000#32⟩ } ∧
    transact (.write 0x00000038#32 4 v) s = { s with cfgSigLen := v, response := some ⟨false, 0x00000000#32⟩ } ∧
    transact (.write 0x0000003C#32 4 v) s = { s with cfgEps := v, response := some ⟨false, 0x00000000#32⟩ })

/-- The active geometry and WS_VALID change only by WS_INIT and reset, and WIN_VALID only by WS_INIT, WIN_GEN and reset (R55,
R65 to R67, R226, R460): of the commands, of the Host's transactions, and of the machine's steps. A reset is the hard reset
turn or a CTRL write with bit 0 set. -/
def Obligations.GeometryChangesOnlyByWsInit : Prop :=
  (∀ (i : Instr) (s t : State), i ≠ .wsInit → exec i s = .next t →
    SameGeometry s t ∧ t.wsValid = s.wsValid ∧ (i ≠ .winGen → t.winValid = s.winValid)) ∧
  (∀ (r : BusReq) (s : State), (Turn.host r).isReset = false →
    SameGeometry s (transact r s) ∧ (transact r s).wsValid = s.wsValid ∧ (transact r s).winValid = s.winValid) ∧
  (∀ s t : State, step s = .next t → s.nextTurn.isReset = false → ¬ s.Runs .wsInit →
    SameGeometry s t ∧ t.wsValid = s.wsValid ∧ (¬ s.Runs .winGen → t.winValid = s.winValid))

/-- The interrupt line after a command: DONE with DONE_EN after success, ERR with ERR_EN after failure, besides what was
pending before (R408, R409). -/
def Obligations.IrqFollowsCompletion : Prop :=
  ∀ (i : Instr) (s t : State), exec i s = .next t →
    (commandError i s = none → t.irq = (s.doneEn || (s.irqErr && s.errEn))) ∧
    (commandError i s ≠ none → t.irq = ((s.irqDone && s.doneEn) || s.errEn))

/-- A command faults only with UnspecifiedRead, naming itself (log 11) and an element that held no value before it (10_state.md R82);
no command is refused. -/
def Obligations.FaultsNameAnUnspecifiedElement : Prop :=
  (∀ (i : Instr) (s : State) (q : Refusal), exec i s ≠ .refused q) ∧
  ∀ (i : Instr) (s : State) (r : Fault), exec i s = .fault r →
    ∃ b e, r = .unspecifiedRead i b e ∧
      ((b.elemSize = 4 ∧ s.realAt b e = none) ∨ (b.elemSize = 8 ∧ s.complexAt b e = none))

/-- A machine whose active elements all hold values runs every command: nothing faults (R82, R405). -/
def Obligations.SpecifiedBuffersNeverFault : Prop :=
  ∀ (i : Instr) (s : State), i.wellFormed = true → s.GeometryLegal → s.AllSpecified → safeOutcome (exec i s)

/-! ### Setup commands -/

/-- NOP completes in every state and changes only the completion registers (R221). -/
def Obligations.NopCompletes : Prop :=
  ∀ s : State, exec .nop s = .next { s with errCode := 0x00#8, irqDone := true, pending := none }

/-- A WS_INIT whose checks pass latches the geometry and its derived registers and makes every buffer element
unspecified (R7, R223). The build parameters are those of the state's build (log 4); the CFG values are those the pending
word was accepted with (log 24). -/
def Obligations.WsInitLatchesGeometry : Prop :=
  ∀ (s : State) (W H N : Nat), BuildLegal s.build →
    s.wsCfg.winLen.toNat = W → s.wsCfg.hop.toNat = H → s.wsCfg.sigLen.toNat = N →
    W % 2 = 0 → 2 ≤ W → W ≤ s.build.wMax → fftSupports s.build W = true → 1 ≤ H → H ≤ W →
    W / 2 + 1 ≤ N → N ≤ s.build.nMax →
    s.wsCfg.eps.getLsbD 31 = false → s.wsCfg.eps.extractLsb' 23 8 ≠ 0xFF#8 → s.wsCfg.eps ≠ 0#32 →
    N / H + 1 ≤ s.build.nbMax →
    ∃ t, exec .wsInit s = .next t ∧
      t = { succeed s with
        actWinLen := s.wsCfg.winLen, actHop := s.wsCfg.hop, actSigLen := s.wsCfg.sigLen, actEps := s.wsCfg.eps,
        padLen := t.padLen, paddedLen := t.paddedLen, nbFrames := t.nbFrames, nbBins := t.nbBins,
        fwdScale := fwdScaleOf W, invScale := invScaleOf W, wsValid := true, winValid := false, mem := [] } ∧
      t.padLen.toNat = W / 2 ∧ t.paddedLen.toNat = N + W ∧ t.nbFrames.toNat = N / H + 1 ∧
      t.nbBins.toNat = W / 2 + 1 ∧ t.GeometryLegal ∧ (∀ a, t.byteAt a = none)

/-- WIN_GEN fills WINDOW with the analysis window and NORM[k] with the squares of the window values that land on k, added
from +0 in increasing frame order, sets WIN_VALID and writes nothing else (R224, R225, R226). -/
def Obligations.WinGenFillsArrays : Prop :=
  ∀ s : State, s.wsValid = true → s.GeometryLegal →
    ∃ t, exec .winGen s = .next t ∧ t = { succeed s with mem := t.mem, winValid := true } ∧
      (∀ i, i < s.gW → t.realAt .window i = some (windowOf s.build s.gW i)) ∧
      (∀ k, k < s.gL → t.realAt .norm k = some ((List.range s.gNB).foldl
        (fun acc f =>
          if f * s.gH ≤ k ∧ k < f * s.gH + s.gW then
            numAdd acc (numMul (windowOf s.build s.gW (k - f * s.gH)) (windowOf s.build s.gW (k - f * s.gH)))
          else acc) 0x00000000#32)) ∧
      (∀ a, ¬ Buffer.window.Covers 0 s.gW a → ¬ Buffer.norm.Covers 0 s.gL a → t.byteAt a = s.byteAt a)

/-- Frame count: NB = N / H + 1, and the frames FRAME_FWD accepts are exactly f in [0, NB), which are exactly the frame
starts f·H with f·H + W ≤ L (41_stft.md R264), with the rule's examples. -/
def Obligations.FrameCountIsExact : Prop :=
  (∀ (s : State) (f : Nat), s.wsValid = true → s.winValid = true → s.GeometryLegal →
    s.gNB = s.gN / s.gH + 1 ∧
    (commandError (.frameFwd f) s = none ↔ f < s.gNB) ∧
    (f < s.gNB ↔ f * s.gH + s.gW ≤ s.gL)) ∧
  (6 / 2 + 1 = 4 ∧ 7 / 2 + 1 = 4 ∧ 8192 / 1024 + 1 = 9 ∧ 8191 / 1024 + 1 = 8 ∧ 3 / 4 + 1 = 1)

/-! ### Forward micro-commands -/

/-- LOAD_ROW c copies a row whose elements hold values into the centre of PADDED bit for bit, and writes nothing else
(R260). -/
def Obligations.LoadRowCopiesTheRow : Prop :=
  ∀ (c : Nat) (s : State) (x : List Word), s.wsValid = true → x.length = s.gN →
    s.ReadsAs .wave (c * s.gN) x →
    ∃ t, exec (.loadRow c) s = .next t ∧ Completed s t ∧ t.ReadsAs .padded s.gP x ∧
      (∀ a, ¬ Buffer.padded.Covers s.gP s.gN a → t.byteAt a = s.byteAt a)

/-- REFLECT_PAD with a centre x: PAD_START and the left edge hold x[P], ..., x[1], PAD_END and the right edge hold
x[N-2], ..., x[N-1-P]; the centre and every other byte are unchanged (R261). -/
def Obligations.ReflectPadMirrorsTheCentre : Prop :=
  ∀ (s : State) (x : List Word), s.wsValid = true → s.GeometryLegal → x.length = s.gN →
    s.ReadsAs .padded s.gP x →
    ∃ t, exec .reflectPad s = .next t ∧ Completed s t ∧ t.ReadsAs .padded s.gP x ∧
      (∀ j, j < s.gP →
        t.realAt .padStart j = x[s.gP - j]? ∧ t.realAt .padded j = x[s.gP - j]? ∧
        t.realAt .padEnd j = x[s.gN - 2 - j]? ∧ t.realAt .padded (s.gP + s.gN + j) = x[s.gN - 2 - j]?) ∧
      (∀ a, ¬ Buffer.padStart.Covers 0 s.gP a → ¬ Buffer.padEnd.Covers 0 s.gP a →
        ¬ Buffer.padded.Covers 0 s.gP a → ¬ Buffer.padded.Covers (s.gP + s.gN) s.gP a →
        t.byteAt a = s.byteAt a)

/-- Reflection correctness: after LOAD_ROW c and REFLECT_PAD, PADDED[P - m] = x[m] and PADDED[P + N - 1 + m] = x[N - 1 - m]
for m in [1, P], bit for bit (R265). -/
def Obligations.ReflectionIsExact : Prop :=
  ∀ (c : Nat) (s u t : State) (x : List Word), s.GeometryLegal → s.wsValid = true → s.gP + 1 ≤ s.gN →
    x.length = s.gN → s.ReadsAs .wave (c * s.gN) x →
    exec (.loadRow c) s = .next u → exec .reflectPad u = .next t →
    ∀ m, 1 ≤ m → m ≤ s.gP →
      t.realAt .padded (s.gP - m) = x[m]? ∧ t.realAt .padded (s.gP + s.gN - 1 + m) = x[s.gN - 1 - m]?

/-- FRAME_FWD f: WINDOWED is the segment of PADDED at f·H times the window, CFRAMES[f] the FFT unit's half-spectrum of it
scaled by CF; no other byte changes (R262, R15, R17). -/
def Obligations.FrameFwdTransformsTheSegment : Prop :=
  ∀ (f : Nat) (s : State) (x w : List Word), s.wsValid = true → s.winValid = true → s.GeometryLegal →
    f < s.gNB → x.length = s.gW → w.length = s.gW →
    s.ReadsAs .padded (f * s.gH) x → s.ReadsAs .window 0 w →
    ∃ t, exec (.frameFwd f) s = .next t ∧ Completed s t ∧
      t.ReadsAs .windowed 0 (List.zipWith numMul x w) ∧ (List.zipWith numMul x w).length = s.gW ∧
      (∀ b, b < s.gNBINS → t.complexAt .cframes (f * s.gNBINS + b) =
        some (numMul (Config.fftFwdRe s.gW (List.zipWith numMul x w) b) s.fwdScale,
          numMul (Config.fftFwdIm s.gW (List.zipWith numMul x w) b) s.fwdScale)) ∧
      (∀ a, ¬ Buffer.windowed.Covers 0 s.gW a → ¬ Buffer.cframes.Covers (f * s.gNBINS) s.gNBINS a →
        t.byteAt a = s.byteAt a)

/-- SPEC_STORE c copies CFRAMES[f][b] to SPEC[c][b][f] for every bin and frame, bit for bit, and writes nothing else
(R263). -/
def Obligations.SpecStoreTransposesTheFrames : Prop :=
  ∀ (c : Nat) (s : State) (z : Nat → Nat → Word × Word), s.wsValid = true →
    (∀ f b, f < s.gNB → b < s.gNBINS → s.complexAt .cframes (f * s.gNBINS + b) = some (z f b)) →
    ∃ t, exec (.specStore c) s = .next t ∧ Completed s t ∧
      (∀ f b, f < s.gNB → b < s.gNBINS → t.complexAt .spec ((c * s.gNBINS + b) * s.gNB + f) = some (z f b)) ∧
      (∀ a, ¬ Buffer.spec.Covers (c * s.gNBINS * s.gNB) (s.gNBINS * s.gNB) a → t.byteAt a = s.byteAt a)

/-! ### Inverse micro-commands -/

/-- SPEC_LOAD c copies SPEC[c][b][f] to CFRAMES[f][b] for every bin and frame, bit for bit, and writes nothing else
(42_istft.md R310). -/
def Obligations.SpecLoadTransposesTheTensor : Prop :=
  ∀ (c : Nat) (s : State) (z : Nat → Nat → Word × Word), s.wsValid = true →
    (∀ f b, f < s.gNB → b < s.gNBINS → s.complexAt .spec ((c * s.gNBINS + b) * s.gNB + f) = some (z f b)) →
    ∃ t, exec (.specLoad c) s = .next t ∧ Completed s t ∧
      (∀ f b, f < s.gNB → b < s.gNBINS → t.complexAt .cframes (f * s.gNBINS + b) = some (z f b)) ∧
      (∀ a, ¬ Buffer.cframes.Covers 0 (s.gNB * s.gNBINS) a → t.byteAt a = s.byteAt a)

/-- ACC_CLEAR writes +0 to every OUTACC element and nothing else; it needs no prior buffer contents (R311). -/
def Obligations.AccClearZeroesTheAccumulator : Prop :=
  ∀ s : State, s.wsValid = true →
    ∃ t, exec .accClear s = .next t ∧ Completed s t ∧
      (∀ k, k < s.gL → t.realAt .outacc k = some 0x00000000#32) ∧
      (∀ a, ¬ Buffer.outacc.Covers 0 s.gL a → t.byteAt a = s.byteAt a)

/-- FRAME_INV f: CFRAMES[f] is scaled by CI in place, WINDOWED is the FFT unit's inverse of it, and OUTACC[s + i] gains
((WINDOWED[i] ⊗ WINDOW[i]) ⊘ num(W)) ⊘ (NORM[s + i] ⊕ EPS); no other byte changes (R312, R313). The unit is the free function
of log 7, and that it gets the frame with the imaginary parts of bins 0 and W/2 cut off is the model's reading (log 8). -/
def Obligations.FrameInvOverlapAdds : Prop :=
  ∀ (f : Nat) (s : State) (z : List (Word × Word)) (a w n : List Word),
    s.wsValid = true → s.winValid = true → s.GeometryLegal → f < s.gNB →
    z.length = s.gNBINS → a.length = s.gW → w.length = s.gW → n.length = s.gW →
    s.ReadsComplexAs .cframes (f * s.gNBINS) z → s.ReadsAs .outacc (f * s.gH) a →
    s.ReadsAs .window 0 w → s.ReadsAs .norm (f * s.gH) n →
    ∃ t, exec (.frameInv f) s = .next t ∧ Completed s t ∧
      t.ReadsComplexAs .cframes (f * s.gNBINS)
        (z.map fun q => (numMul q.1 s.invScale, numMul q.2 s.invScale)) ∧
      (∀ i, i < s.gW →
        ∃ y, y = Config.fftInv s.gW
            (dropEdgeIm s.gW (z.map fun q => (numMul q.1 s.invScale, numMul q.2 s.invScale))) i ∧
          t.realAt .windowed i = some y ∧
          t.realAt .outacc (f * s.gH + i) = some (numAdd (a.getD i 0#32)
            (numDiv (numDiv (numMul y (w.getD i 0#32)) (numOfNat s.gW))
              (numAdd (n.getD i 0#32) s.actEps)))) ∧
      (∀ k, ¬ Buffer.cframes.Covers (f * s.gNBINS) s.gNBINS k → ¬ Buffer.windowed.Covers 0 s.gW k →
        ¬ Buffer.outacc.Covers (f * s.gH) s.gW k → t.byteAt k = s.byteAt k)

/-- The imaginary parts of bins 0 and W/2 have no effect on the inverse transform of a frame (00_scope.md R13, R312 corner
case 3). That the model cuts them off before the FFT unit is the model's reading (log 8). -/
def Obligations.EdgeImaginaryPartsAreIgnored : Prop :=
  ∀ (W : Nat) (ci : Word) (z z' : List (Word × Word)), z.length = z'.length →
    (∀ k, k < z.length → (z[k]?).map Prod.fst = (z'[k]?).map Prod.fst ∧
      (k ≠ 0 → k ≠ W / 2 → z[k]? = z'[k]?)) →
    inverseSamples binary32 W (unscaleFrame binary32 ci z) =
      inverseSamples binary32 W (unscaleFrame binary32 ci z')

/-- ROW_STORE c copies the centre of OUTACC to WAVE row c bit for bit, and writes nothing else (R314). -/
def Obligations.RowStoreCopiesTheCentre : Prop :=
  ∀ (c : Nat) (s : State) (x : List Word), s.wsValid = true → x.length = s.gN → s.ReadsAs .outacc s.gP x →
    ∃ t, exec (.rowStore c) s = .next t ∧ Completed s t ∧ t.ReadsAs .wave (c * s.gN) x ∧
      (∀ a, ¬ Buffer.wave.Covers (c * s.gN) s.gN a → t.byteAt a = s.byteAt a)

/-! ### Driver commands -/

/-- STFT c computes the forward pass of row c: SPEC[c][b][f] and CFRAMES[f][b] hold its frames, PADDED the padded row,
and every byte outside PADDED, the pads, WINDOWED, CFRAMES and SPEC[c] is unchanged (43_channel_driver.md R360). -/
def Obligations.StftComputesTheForwardPass : Prop :=
  ∀ (c : Nat) (s : State) (x : List Word), c < 2 → s.wsValid = true → s.winValid = true → s.GeometryLegal →
    s.ArraysValid → x.length = s.gN → s.ReadsAs .wave (c * s.gN) x →
    ∃ t, exec (.stft c) s = .next t ∧ Completed s t ∧
      (∀ f b, f < s.gNB → b < s.gNBINS →
        ∃ v, ((forwardPass binary32 s.gW s.gH s.gNB s.fwdScale s.windowArray x)[f]?.bind fun fr => fr[b]?) = some v ∧
          t.complexAt .spec ((c * s.gNBINS + b) * s.gNB + f) = some v ∧
          t.complexAt .cframes (f * s.gNBINS + b) = some v) ∧
      t.ReadsAs .padded 0 (paddedRow s.gP x) ∧
      (∀ a, ¬ s.InBuffer .padded a → ¬ s.InBuffer .padStart a → ¬ s.InBuffer .padEnd a →
        ¬ s.InBuffer .windowed a → ¬ s.InBuffer .cframes a →
        ¬ Buffer.spec.Covers (c * s.gNBINS * s.gNB) (s.gNBINS * s.gNB) a → t.byteAt a = s.byteAt a)

/-- STFT_ALL computes the forward pass of both rows, channel 0 then channel 1 (R361): SPEC holds both, and WAVE, WINDOW,
NORM and OUTACC are unchanged. -/
def Obligations.StftAllComputesBothForwardPasses : Prop :=
  ∀ (s : State) (x : Nat → List Word), s.wsValid = true → s.winValid = true → s.GeometryLegal →
    s.ArraysValid → (∀ c, c < 2 → (x c).length = s.gN ∧ s.ReadsAs .wave (c * s.gN) (x c)) →
    ∃ t, exec .stftAll s = .next t ∧ Completed s t ∧
      (∀ c f b, c < 2 → f < s.gNB → b < s.gNBINS →
        ∃ v, ((forwardPass binary32 s.gW s.gH s.gNB s.fwdScale s.windowArray (x c))[f]?.bind
            fun fr => fr[b]?) = some v ∧
          t.complexAt .spec ((c * s.gNBINS + b) * s.gNB + f) = some v) ∧
      (∀ a, ¬ s.InBuffer .padded a → ¬ s.InBuffer .padStart a → ¬ s.InBuffer .padEnd a →
        ¬ s.InBuffer .windowed a → ¬ s.InBuffer .cframes a → ¬ s.InBuffer .spec a → t.byteAt a = s.byteAt a)

/-- ISTFT c computes the inverse pass of channel c's spectrogram: WAVE[c] holds it, and every byte outside CFRAMES,
WINDOWED, OUTACC and WAVE[c], SPEC among them, is unchanged (R362). -/
def Obligations.IstftComputesTheInversePass : Prop :=
  ∀ (c : Nat) (s : State) (frames : List (List (Word × Word))), c < 2 → s.wsValid = true → s.winValid = true →
    s.GeometryLegal → s.ArraysValid → SpecHolds s c frames →
    ∃ t, exec (.istft c) s = .next t ∧ Completed s t ∧
      (inversePass binary32 s.gW s.gH s.gN s.invScale s.actEps s.windowArray s.normArray frames).length = s.gN ∧
      t.ReadsAs .wave (c * s.gN)
        (inversePass binary32 s.gW s.gH s.gN s.invScale s.actEps s.windowArray s.normArray frames) ∧
      (∀ a, ¬ s.InBuffer .cframes a → ¬ s.InBuffer .windowed a → ¬ s.InBuffer .outacc a →
        ¬ Buffer.wave.Covers (c * s.gN) s.gN a → t.byteAt a = s.byteAt a)

/-- ISTFT_ALL computes the inverse pass of both channels (R363): WAVE holds both rows, SPEC is unchanged. -/
def Obligations.IstftAllComputesBothInversePasses : Prop :=
  ∀ (s : State) (frames : Nat → List (List (Word × Word))), s.wsValid = true → s.winValid = true →
    s.GeometryLegal → s.ArraysValid → (∀ c, c < 2 → SpecHolds s c (frames c)) →
    ∃ t, exec .istftAll s = .next t ∧ Completed s t ∧
      (∀ c, c < 2 → t.ReadsAs .wave (c * s.gN)
        (inversePass binary32 s.gW s.gH s.gN s.invScale s.actEps s.windowArray s.normArray (frames c)) ∧
        (inversePass binary32 s.gW s.gH s.gN s.invScale s.actEps s.windowArray s.normArray (frames c)).length
          = s.gN) ∧
      (∀ a, ¬ s.InBuffer .cframes a → ¬ s.InBuffer .windowed a → ¬ s.InBuffer .outacc a →
        ¬ s.InBuffer .wave a → t.byteAt a = s.byteAt a)

/-- The driver commands are their sequences: STFT c leaves exactly the state its micro-commands leave, `stft_steps c`, ISTFT
c that of `istft_steps c` (30_encoding.md R179, R360, R362), and the two-channel commands that of channel 0, then channel 1
(R361, R363), when no step faults. -/
def Obligations.DriversEqualTheirSteps : Prop :=
  ∀ s t : State, s.wsValid = true → s.winValid = true →
    (∀ c, (exec (.stft c) s = .next t ↔ execAll (stftSteps c s.gNB) s = .next t) ∧
      (exec (.istft c) s = .next t ↔ execAll (istftSteps c s.gNB) s = .next t)) ∧
    (exec .stftAll s = .next t ↔ execAll [.stft 0, .stft 1] s = .next t) ∧
    (exec .istftAll s = .next t ↔ execAll [.istft 0, .istft 1] s = .next t)

/-- Channel independence (R364): what STFT c writes to SPEC[c] depends on row c, the geometry and the arrays alone, and what
ISTFT c writes to WAVE[c] on SPEC[c], the geometry and the arrays alone; neither depends on the other channel or the scratch
buffers. -/
def Obligations.ChannelsAreIndependent : Prop :=
  ∀ (c : Nat) (s s' t t' : State), c < 2 →
    s.GeometryLegal → s'.GeometryLegal → s.ArraysValid → s'.ArraysValid → SameGeometry s s' →
    s.wsValid = true → s'.wsValid = true → s.winValid = true → s'.winValid = true →
    (∀ x : List Word, x.length = s.gN → s.ReadsAs .wave (c * s.gN) x → s'.ReadsAs .wave (c * s.gN) x →
      exec (.stft c) s = .next t → exec (.stft c) s' = .next t' →
      ∀ f b, f < s.gNB → b < s.gNBINS →
        t.complexAt .spec ((c * s.gNBINS + b) * s.gNB + f) = t'.complexAt .spec ((c * s.gNBINS + b) * s.gNB + f)) ∧
    (∀ frames : List (List (Word × Word)), SpecHolds s c frames → SpecHolds s' c frames →
      exec (.istft c) s = .next t → exec (.istft c) s' = .next t' →
      ∀ n, n < s.gN → t.realAt .wave (c * s.gN + n) = t'.realAt .wave (c * s.gN + n))

/-! ### Invariants of the machine -/

/-- The flag invariants of R70 hold in every state a step reaches from one that has them; BUSY is "a command is pending"
in every state (log 3). -/
def Obligations.FlagInvariantsAreKept : Prop :=
  (∀ s t : State, s.FlagsCoherent → step s = .next t → t.FlagsCoherent) ∧
  (∀ s : State, s.status.getLsbD 0 = s.pending.isSome)

/-- Every step keeps the canonical form of the buffers' storage. -/
def Obligations.StorageStaysCanonical : Prop :=
  ∀ s t : State, s.MemCanonical → step s = .next t → t.MemCanonical

/-- Every step keeps the invariant of the machine: R70, a latched geometry legal and with the derived registers of R7 and
R17, canonical storage that lies inside the active buffers, and, while WIN_VALID = 1, WINDOW and NORM holding exactly what
WIN_GEN computes (R226). -/
def Obligations.InvariantIsKept : Prop :=
  ∀ s t : State, s.Inv → step s = .next t → t.Inv

/-- The invariant holds after reset, of the default build and of every legal one (R461, log 4). -/
def Obligations.InvariantHoldsAtReset : Prop :=
  State.reset.Inv ∧ ∀ b, BuildLegal b → (State.resetOf b).Inv

/-- No command but WIN_GEN writes WINDOW or NORM (WS_INIT makes them unspecified), no Host transaction but a soft reset
changes them, and so no step but those of WIN_GEN, WS_INIT and a reset, soft or hard, does (R74, R75, R226, 20_memory.md
R131, R460). -/
def Obligations.WindowAndNormAreImmutable : Prop :=
  ∀ (s : State) (a : Nat), s.GeometryLegal → s.InBuffer .window a ∨ s.InBuffer .norm a →
    (∀ i t, i.wellFormed = true → i ≠ .winGen → i ≠ .wsInit → exec i s = .next t → t.byteAt a = s.byteAt a) ∧
    (∀ r, (Turn.host r).isReset = false → (transact r s).byteAt a = s.byteAt a) ∧
    (∀ t, step s = .next t → s.nextTurn.isReset = false → ¬ s.Runs .winGen → ¬ s.Runs .wsInit →
      t.byteAt a = s.byteAt a)

/-! ### Arithmetic -/

/-- The rounding function answers the nearest binary32 magnitude to num/den, the even one on a tie, and infinity exactly
from half an ulp past the largest finite value on. R10 names IEEE 754 round to nearest even; the format's layout and the
overflow threshold are taken from that standard (log 23). Units of 2^-149. -/
def Obligations.RoundingIsNearestEven : Prop :=
  ∀ num den : Nat, 0 < den →
    (roundMag num den < infMag →
      ∀ p, p < infMag → p ≠ roundMag num den →
        |(magValue (roundMag num den) * den : Int) - num| ≤ |(magValue p * den : Int) - num| ∧
        (|(magValue (roundMag num den) * den : Int) - num| = |(magValue p * den : Int) - num| →
          roundMag num den % 2 = 0)) ∧
    (roundMag num den = infMag ↔ (2 ^ 25 - 1) * 2 ^ 252 * den ≤ num)

/-- Addition, subtraction, multiplication and division of finite operands, and num(n), are correctly rounded (R9, R10): where
the exact result is below (2^25 - 1)·2^103 in magnitude, half an ulp past the largest finite value, the answer is finite and
nearest to it, the even one on a tie; from there on it is an infinity of its sign. The format's layout and the overflow
threshold are IEEE 754's, which R10 names (log 23). -/
def Obligations.ArithmeticIsCorrectlyRounded : Prop :=
  (∀ a b : Word, magBits a < infMag → magBits b < infMag →
    IsRounded (numAdd a b) (realOfWord a + realOfWord b) ∧
    IsRounded (numSub a b) (realOfWord a - realOfWord b) ∧
    IsRounded (numMul a b) (realOfWord a * realOfWord b) ∧
    (magBits b ≠ 0 → IsRounded (numDiv a b) (realOfWord a / realOfWord b))) ∧
  (∀ n : Nat, IsRounded (numOfNat n) n)

/-- A NaN operand gives a NaN result in every operation (R10, R418), and so do the invalid operations of IEEE 754: inf - inf
and inf + (-inf), 0 times inf, 0 / 0 and inf / inf (log 23); which NaN it is stays free (log 6). -/
def Obligations.NaNPropagates : Prop :=
  (∀ a b : Word, isNaN a = true ∨ isNaN b = true →
    isNaN (numAdd a b) = true ∧ isNaN (numSub a b) = true ∧ isNaN (numMul a b) = true ∧ isNaN (numDiv a b) = true) ∧
  (∀ a b : Word, isInf a = true → isInf b = true →
    isNaN (numDiv a b) = true ∧ (signBit a ≠ signBit b → isNaN (numAdd a b) = true) ∧
    (signBit a = signBit b → isNaN (numSub a b) = true)) ∧
  (∀ a b : Word, magBits a = 0 → isInf b = true → isNaN (numMul a b) = true ∧ isNaN (numMul b a) = true) ∧
  (∀ a b : Word, magBits a = 0 → magBits b = 0 → isNaN (numDiv a b) = true)

/-- The default window is the periodic Hann window 0.5 - 0.5·cos(2π·i/W) correctly rounded (R16): for every power of two, and
for any other length wherever the model's two bounds round to one value; elsewhere it is one of those two roundings (log 9). -/
def Obligations.WindowIsCorrectlyRoundedHann : Prop :=
  ∀ W i : Nat, 2 ≤ W → i < W →
    (isPowerOfTwo W = true → IsNearestEven (windowImpl W i) (refWindow W i)) ∧
    ((hannBounds W (min i (W - i))).1 = (hannBounds W (min i (W - i))).2 →
      IsNearestEven (packFloat false (hannBounds W (min i (W - i))).1) (refWindow W i) ∧
      IsNearestEven (windowImpl W i) (refWindow W i)) ∧
    (isPowerOfTwo W = false → magBits (windowImpl W i) = (hannBounds W (min i (W - i))).1 ∨
      magBits (windowImpl W i) = (hannBounds W (min i (W - i))).2)

/-- The scale constants are 1/√W and √W correctly rounded for every length a register holds (R17). -/
def Obligations.ScalesAreCorrectlyRounded : Prop :=
  ∀ W : Nat, 2 ≤ W → W < 2 ^ 32 →
    IsNearestEven (fwdScaleOf W) (1 / Real.sqrt W) ∧ IsNearestEven (invScaleOf W) (Real.sqrt W)

/-- Den(k) is positive for every k under binary32 (R227, R313): for a legal geometry every NORM value plus EPS is not a
NaN, not negative and not zero, so the division of R312 never divides by zero. The windows of a build are finite (log 4). -/
def Obligations.DenominatorIsPositive : Prop :=
  ∀ (s : State) (k : Nat) (v : Word), s.wsValid = true → s.winValid = true → s.GeometryLegal → s.ArraysValid →
    k < s.gL → s.realAt .norm k = some v →
    isNaN (numAdd v s.actEps) = false ∧ signBit (numAdd v s.actEps) = false ∧ magBits (numAdd v s.actEps) ≠ 0

/-! ### The exact-real reading -/

/-- Inverse identity: FFT_INV(W, FFT_FWD(W, x)) = W·x elementwise (R14). -/
def Obligations.ReferenceInverseIdentity : Prop :=
  ∀ (W : Nat) (x : List ℝ), W % 2 = 0 → 2 ≤ W → x.length = W →
    ∀ n, n < W →
      refInverse W ((List.range (W / 2 + 1)).map fun k => (refForwardRe W x k, refForwardIm W x k)) n
        = W * x.getD n 0

/-- NORM is the source's sum: entry k is the sum of window[k - s]² over all frame starts s with s ≤ k < s + W, and the
divisor NORM[k] + EPS is positive (R225, R227). -/
def Obligations.NormIsTheSumOfSquares : Prop :=
  ∀ (W H N : Nat) (win : List ℝ) (eps : ℝ), 1 ≤ H → 0 < eps → win.length = W →
    ∀ k, k < N + W →
      ∃ v, (normArray exactReal win (N + W) H (N / H + 1))[k]? = some v ∧
        v = ∑ f ∈ (Finset.range (N / H + 1)).filter (fun f => f * H ≤ k ∧ k < f * H + W),
          (win.getD (k - f * H) 0) ^ 2 ∧
        0 ≤ v ∧ 0 < den exactReal v eps

/-- Round-trip law: with exact reals, the inverse pass of the forward pass of x is x[n]·NORM[P+n] / (NORM[P+n] + EPS)
(42_istft.md R315). -/
def Obligations.RoundTripLaw : Prop :=
  ∀ (W H N : Nat) (x : List ℝ) (eps : ℝ), W % 2 = 0 → 2 ≤ W → 1 ≤ H → H ≤ W → W / 2 + 1 ≤ N →
    x.length = N → 0 < eps →
    let win := windowArray exactReal W
    let norm := normArray exactReal win (N + W) H (N / H + 1)
    let frames := forwardPass exactReal W H (N / H + 1) (exactReal.fwdScale W) win x
    ∀ n, n < N →
      (inversePass exactReal W H N (exactReal.invScale W) eps win norm frames)[n]? =
        some (x.getD n 0 * norm.getD (W / 2 + n) 0 / (norm.getD (W / 2 + n) 0 + eps))

/-- Zero law: with exact reals, the inverse of an all-zero spectrogram is an all-zero row and the forward pass of an
all-zero row is all zero (R316). -/
def Obligations.ZeroLaw : Prop :=
  ∀ (W H N : Nat) (eps : ℝ), W % 2 = 0 → 2 ≤ W → 1 ≤ H → H ≤ W → W / 2 + 1 ≤ N → 0 < eps →
    let win := windowArray exactReal W
    let norm := normArray exactReal win (N + W) H (N / H + 1)
    inversePass exactReal W H N (exactReal.invScale W) eps win norm
        (List.replicate (N / H + 1) (List.replicate (W / 2 + 1) (0, 0))) = List.replicate N 0 ∧
    forwardPass exactReal W H (N / H + 1) (exactReal.fwdScale W) win (List.replicate N 0) =
      List.replicate (N / H + 1) (List.replicate (W / 2 + 1) (0, 0))

/-! ### The Host port -/

/-- A transaction is a bus error exactly under the conditions of 20_memory.md R130, and a bus error gives the error
response with data 0 and changes no state (R130, 60_exceptions.md R411); any other gets no error response. The response is
the model's field (log 13). -/
def Obligations.BusErrorsAreExactlyR130 : Prop :=
  ∀ (r : BusReq) (s : State),
    let bad := r.bytes ≠ 4 ∨ r.addr % 4 ≠ 0 ∨ 0xB0000000 ≤ r.addr ∨
      (r.addr < 0x10000000 ∧
        (0x1000 ≤ r.addr ∨ (r.isWrite = true ∧ r.addr = 0x20 ∧ s.pending.isSome = true))) ∨
      (0x10000000 ≤ r.addr ∧
        (s.wsValid = false ∨ s.pending.isSome = true ∨ (r.isWrite = true ∧ 0x30000000 ≤ r.addr) ∨
          ∃ b : Buffer, b.region = r.addr / 0x10000000 ∧ b.len s * b.elemSize ≤ r.addr % 0x10000000))
    (bad → transact r s = { s with response := some ⟨true, 0x00000000#32⟩ }) ∧
    (¬ bad → ∃ v, (transact r s).response = some ⟨false, v⟩)

/-- No read has a side effect: besides the model's own response and draw counter (logs 10, 13) it changes nothing (R134). -/
def Obligations.ReadsHaveNoSideEffect : Prop :=
  ∀ (a : Word) (n : Nat) (s : State),
    transact (.read a n) s =
      { s with response := (transact (.read a n) s).response, draws := (transact (.read a n) s).draws }

/-- The Host's word written to WAVE or SPEC while idle reads back, lies in the window little-endian, and no other byte
changes (R128, R131, R137); the answer to a write is the model's field (log 13). -/
def Obligations.HostWritesReadBack : Prop :=
  ∀ (b : Buffer) (off : Nat) (v : Word) (s : State), b = .wave ∨ b = .spec → s.wsValid = true →
    s.pending = none → off % 4 = 0 → off < b.len s * b.elemSize → off < 2 ^ 28 →
    ∃ t, transact (.write (BitVec.ofNat 32 (b.base + off)) 4 v) s = t ∧
      t.response = some ⟨false, 0x00000000#32⟩ ∧
      (transact (.read (BitVec.ofNat 32 (b.base + off)) 4) t).response = some ⟨false, v⟩ ∧
      (∀ j, j < 4 → t.byteAt (b.base + off + j) = some (v.extractLsb' (8 * j) 8)) ∧
      (∀ a, ¬ (b.base + off ≤ a ∧ a < b.base + off + 4) → t.byteAt a = s.byteAt a) ∧
      t = { s with mem := t.mem, response := t.response }

/-- The windows show the elements at the layouts of R124 to R127: a Host read of WAVE[c][n], of a part of SPEC[c][b][f] or
CFRAMES[f][b], or of element i of a one-dimensional buffer answers what the element holds. -/
def Obligations.WindowsShowTheElements : Prop :=
  ∀ s : State, s.wsValid = true → s.GeometryLegal → s.pending = none →
    (∀ c n v, c < 2 → n < s.gN → s.realAt .wave (c * s.gN + n) = some v →
      (transact (.read (BitVec.ofNat 32 (0x10000000 + 4 * (c * s.gN + n))) 4) s).response = some ⟨false, v⟩) ∧
    (∀ c b f p re im, c < 2 → b < s.gNBINS → f < s.gNB → p < 2 →
      s.complexAt .spec ((c * s.gNBINS + b) * s.gNB + f) = some (re, im) →
      (transact (.read (BitVec.ofNat 32
        (0x20000000 + 8 * ((c * s.gNBINS + b) * s.gNB + f) + 4 * p)) 4) s).response
          = some ⟨false, if p = 0 then re else im⟩) ∧
    (∀ b f p re im, b < s.gNBINS → f < s.gNB → p < 2 →
      s.complexAt .cframes (f * s.gNBINS + b) = some (re, im) →
      (transact (.read (BitVec.ofNat 32 (0x90000000 + 8 * (f * s.gNBINS + b) + 4 * p)) 4) s).response
          = some ⟨false, if p = 0 then re else im⟩) ∧
    (∀ q ∈ [(0x30000000, Buffer.window, s.gW), (0x40000000, .norm, s.gL), (0x50000000, .padded, s.gL),
        (0x60000000, .padStart, s.gP), (0x70000000, .padEnd, s.gP), (0x80000000, .windowed, s.gW),
        (0xA0000000, .outacc, s.gL)],
      ∀ i v, i < q.2.2 → s.realAt q.2.1 i = some v →
        (transact (.read (BitVec.ofNat 32 (q.1 + 4 * i)) 4) s).response = some ⟨false, v⟩)

/-- A CMD write while idle makes the word pending, sets BUSY and LAST_OP and nothing else; while busy it is a bus error,
the word is dropped and nothing changes (10_state.md R60, R466). That the pending command keeps the CFG values of its
acceptance, and the data of the answer, are the model's (logs 24, 13). -/
def Obligations.CmdWriteIsAcceptedWhenIdle : Prop :=
  ∀ (v : Word) (s : State),
    (s.pending = none →
      transact (.write 0x00000020#32 4 v) s =
        { s with
          pending := some ⟨v, ⟨s.cfgWinLen, s.cfgHop, s.cfgSigLen, s.cfgEps⟩⟩, lastOp := v.extractLsb' 0 8
          response := some ⟨false, 0x00000000#32⟩ }) ∧
    (s.pending.isSome = true →
      transact (.write 0x00000020#32 4 v) s = { s with response := some ⟨true, 0x00000000#32⟩ })

/-- The W1C write of IRQ_STATUS clears each bit written as 1 and leaves each bit written as 0, and never sets one; the
IRQ_EN write changes the enables alone (R56, R57, R410). -/
def Obligations.IrqStatusIsWriteOneToClear : Prop :=
  ∀ (v : Word) (s : State),
    transact (.write 0x00000010#32 4 v) s =
      { s with
        irqDone := if v.getLsbD 0 = true then false else s.irqDone
        irqErr := if v.getLsbD 1 = true then false else s.irqErr
        response := some ⟨false, 0x00000000#32⟩ } ∧
    transact (.write 0x00000014#32 4 v) s =
      { s with
        doneEn := v.getLsbD 0, errEn := v.getLsbD 1, response := some ⟨false, 0x00000000#32⟩ }

/-- The CSR map of R51 in every state: each named register reads its field (R52 to R68), with its reserved bits 0; read-only
and reserved offsets ignore writes and reserved ones read 0, neither a bus error (R69). Writes are answered with the model's
data 0 (log 13). -/
def Obligations.CsrReadsShowTheRegisters : Prop :=
  (∀ s : State,
    (∃ w, (transact (.read 0x0000000C#32 4) s).response = some ⟨false, w⟩ ∧
      w.getLsbD 0 = s.pending.isSome ∧ w.getLsbD 1 = s.wsValid ∧ w.getLsbD 2 = s.winValid ∧
      w.extractLsb' 3 5 = 0#5 ∧ w.extractLsb' 8 8 = s.lastOp ∧ w.extractLsb' 16 16 = 0#16) ∧
    (∃ w, (transact (.read 0x00000010#32 4) s).response = some ⟨false, w⟩ ∧
      w.getLsbD 0 = s.irqDone ∧ w.getLsbD 1 = s.irqErr ∧ w.extractLsb' 2 30 = 0#30) ∧
    (∃ w, (transact (.read 0x00000014#32 4) s).response = some ⟨false, w⟩ ∧
      w.getLsbD 0 = s.doneEn ∧ w.getLsbD 1 = s.errEn ∧ w.extractLsb' 2 30 = 0#30) ∧
    (∃ w, (transact (.read 0x00000018#32 4) s).response = some ⟨false, w⟩ ∧
      w.extractLsb' 0 8 = s.errCode ∧ w.extractLsb' 8 24 = 0#24) ∧
    (∀ q ∈ [(0x000, 0x53544654#32), (0x004, 0x00070000#32), (0x01C, s.errInfo), (0x030, s.cfgWinLen),
        (0x034, s.cfgHop), (0x038, s.cfgSigLen), (0x03C, s.cfgEps), (0x040, s.actWinLen), (0x044, s.actHop),
        (0x048, s.actSigLen), (0x04C, s.actEps), (0x050, s.padLen), (0x054, s.paddedLen), (0x058, s.nbFrames),
        (0x05C, s.nbBins), (0x060, s.fwdScale), (0x064, s.invScale), (0x070, BitVec.ofNat 32 s.build.wMax),
        (0x074, BitVec.ofNat 32 s.build.nMax), (0x078, BitVec.ofNat 32 s.build.nbMax)],
      transact (.read (BitVec.ofNat 32 q.1) 4) s = { s with response := some ⟨false, q.2⟩ })) ∧
  ∀ (off : Nat) (v : Word) (s : State), off < 0x1000 → off % 4 = 0 →
    (off ∉ [0x008, 0x010, 0x014, 0x020, 0x030, 0x034, 0x038, 0x03C] →
      transact (.write (BitVec.ofNat 32 off) 4 v) s = { s with response := some ⟨false, 0x00000000#32⟩ }) ∧
    (off ∉ [0x000, 0x004, 0x00C, 0x010, 0x014, 0x018, 0x01C, 0x030, 0x034, 0x038, 0x03C, 0x040, 0x044, 0x048, 0x04C,
        0x050, 0x054, 0x058, 0x05C, 0x060, 0x064, 0x070, 0x074, 0x078] →
      transact (.read (BitVec.ofNat 32 off) 4) s = { s with response := some ⟨false, 0x00000000#32⟩ })

/-- A reset, soft (a write of 1 to CTRL bit 0) or hard (the hard reset turn), resets the machine whatever it was doing: every
CSR reads its reset value, the pending command is gone, every buffer element is unspecified and irq is 0 (R460 to R462); the
model's own fields stay, the build among them, which gives the CAP_* values (logs 2, 4, 13). -/
def Obligations.ResetLeavesTheResetState : Prop :=
  (∀ (v : Word) (s : State), v.getLsbD 0 = true →
    transact (.write 0x00000008#32 4 v) s =
      { State.resetOf s.build with turns := s.turns, draws := s.draws, response := some ⟨false, 0x00000000#32⟩ }) ∧
  (∀ (s : State) (ts : List Turn), s.turns = .hardReset :: ts →
    step s = .next { State.resetOf s.build with turns := ts, draws := s.draws, response := s.response }) ∧
  (∀ (b : Config.Build) (ts : List Turn) (n : Nat) (a : Option BusResp) (r : State),
    r = { State.resetOf b with turns := ts, draws := n, response := a } →
    r.pending = none ∧ r.irq = false ∧ (∀ k, r.byteAt k = none) ∧
    ∀ q ∈ [(0x000, 0x53544654#32), (0x004, 0x00070000#32), (0x008, 0#32), (0x00C, 0#32), (0x010, 0#32), (0x014, 0#32),
        (0x018, 0#32), (0x01C, 0#32), (0x020, 0#32), (0x030, 0x00001000#32), (0x034, 0x00000400#32), (0x038, 0#32),
        (0x03C, 0x322BCC77#32), (0x040, 0#32), (0x044, 0#32), (0x048, 0#32), (0x04C, 0#32), (0x050, 0#32),
        (0x054, 0#32), (0x058, 0#32), (0x05C, 0#32), (0x060, 0#32), (0x064, 0#32),
        (0x070, BitVec.ofNat 32 b.wMax), (0x074, BitVec.ofNat 32 b.nMax), (0x078, BitVec.ofNat 32 b.nbMax)],
      csrRead q.1 r = q.2)

/-- Latency independence (R474): while any command is pending, WS_INIT among them, a Host transaction that is no soft reset
changes nothing of its effect on the buffers, the geometry, the flags and the error registers. For WS_INIT this rests on the
model's reading that it takes the CFG values of its acceptance (log 24). -/
def Obligations.LatencyIndependence : Prop :=
  ∀ (s : State) (p : Pending) (r : BusReq), s.pending = some p → (Turn.host r).isReset = false →
    (transact r s).pending = some p ∧
    ((∃ t, executeWord p.word s = .next t) ↔ (∃ t, executeWord p.word (transact r s) = .next t)) ∧
    ∀ t u, executeWord p.word s = .next t → executeWord p.word (transact r s) = .next u →
      u.mem = t.mem ∧ SameGeometry t u ∧ u.wsValid = t.wsValid ∧ u.winValid = t.winValid ∧
      u.errCode = t.errCode ∧ u.errInfo = t.errInfo ∧ u.lastOp = t.lastOp ∧ u.pending = none
end

