-- ==== Sys2Proof/Laws/Memory.lean ====
section
/-! SUPPORT. What the buffers' storage does: reading after a splice, the canonical form, and words in bytes. -/

namespace Sys2Proof.Machine

@[simp] theorem cellsFrom_length (a : Nat) (bs : List Byte) : (cellsFrom a bs).length = bs.length := by
  induction bs generalizing a with
  | nil => rfl
  | cons b bs ih => simp [cellsFrom, ih]

theorem byte_append (m n : Memory) (k : Nat) :
    Memory.byte (m ++ n) k = (Memory.byte m k).or (Memory.byte n k) := by
  induction m with
  | nil => simp [Memory.byte]
  | cons c m ih =>
    obtain ⟨a, b⟩ := c
    by_cases h : a = k <;> simp [Memory.byte, h, ih]

theorem byte_filter (p : Host.Cell → Bool) (m : Memory) (k : Nat) (h : ∀ b, p (k, b) = true) :
    Memory.byte (m.filter p) k = Memory.byte m k := by
  induction m with
  | nil => rfl
  | cons c m ih =>
    obtain ⟨a, b⟩ := c
    by_cases hk : a = k
    · subst hk; simp [Memory.byte, h]
    · by_cases hp : p (a, b) = true <;> simp [Memory.byte, hp, hk, ih]

theorem byte_filter_none (p : Host.Cell → Bool) (m : Memory) (k : Nat) (h : ∀ b, p (k, b) = false) :
    Memory.byte (m.filter p) k = none := by
  induction m with
  | nil => rfl
  | cons c m ih =>
    obtain ⟨a, b⟩ := c
    by_cases hp : p (a, b) = true
    · have hk : a ≠ k := by rintro rfl; simp [h] at hp
      simp [Memory.byte, hp, hk, ih]
    · simp [hp, ih]

theorem byte_cellsFrom (a : Nat) (bs : List Byte) (k : Nat) :
    Memory.byte (cellsFrom a bs) k = if a ≤ k then bs[k - a]? else none := by
  induction bs generalizing a with
  | nil => simp [cellsFrom, Memory.byte]
  | cons b bs ih =>
    simp only [cellsFrom, Memory.byte, ih]
    rcases lt_trichotomy a k with h | h | h
    · rw [if_neg (by omega), if_pos (by omega), if_pos (by omega), show k - a = (k - (a + 1)) + 1 by omega]
      simp
    · subst h; simp
    · rw [if_neg (by omega), if_neg (by omega), if_neg (by omega)]

/-- Reading one byte after a splice. -/
theorem byte_splice (m : Memory) (a : Nat) (bs : List Byte) (k : Nat) :
    (m.splice a bs).byte k = if a ≤ k ∧ k < a + bs.length then bs[k - a]? else m.byte k := by
  unfold Memory.splice
  rw [byte_append, byte_append, byte_cellsFrom]
  by_cases h1 : k < a
  · rw [byte_filter _ _ _ (by simpa using h1), byte_filter_none _ _ _ (by simp; omega), if_neg (by omega),
      if_neg (by omega)]
    simp
  · rw [byte_filter_none _ _ _ (by simpa using h1), if_pos (by omega)]
    by_cases h2 : k < a + bs.length
    · rw [if_pos (by omega), byte_filter_none _ _ _ (by simp; omega)]
      simp
    · rw [if_neg (by omega), byte_filter _ _ _ (by simp; omega)]
      simp [List.getElem?_eq_none (show bs.length ≤ k - a by omega)]

/-- The canonical form as a pairwise order of the addresses. -/
theorem wf_iff_pairwise (m : Memory) : Memory.wf m = true ↔ m.Pairwise (fun c d => c.1 < d.1) := by
  induction m with
  | nil => simp [Memory.wf]
  | cons c m ih =>
    cases m with
    | nil => simp [Memory.wf]
    | cons d m =>
      obtain ⟨a, x⟩ := c
      obtain ⟨b, y⟩ := d
      simp only [Memory.wf, Bool.and_eq_true, decide_eq_true_eq, ih]
      rw [List.pairwise_cons (a := (a, x))]
      constructor
      · rintro ⟨h, hp⟩
        refine ⟨?_, hp⟩
        intro e he
        rcases List.mem_cons.1 he with rfl | he
        · exact h
        · exact lt_trans h (List.rel_of_pairwise_cons hp he)
      · rintro ⟨h, hp⟩
        exact ⟨h (b, y) (by simp), hp⟩

theorem mem_cellsFrom {a : Nat} {bs : List Byte} {c : Host.Cell} (h : c ∈ cellsFrom a bs) :
    a ≤ c.1 ∧ c.1 < a + bs.length := by
  induction bs generalizing a with
  | nil => simp [cellsFrom] at h
  | cons b bs ih =>
    rcases List.mem_cons.1 h with rfl | h
    · simp
    · have := ih h; simp; omega

theorem pairwise_cellsFrom (a : Nat) (bs : List Byte) :
    (cellsFrom a bs).Pairwise (fun c d => c.1 < d.1) := by
  induction bs generalizing a with
  | nil => exact List.Pairwise.nil
  | cons b bs ih =>
    refine List.Pairwise.cons (fun d hd => ?_) (ih _)
    have := mem_cellsFrom hd
    simp; omega

/-- A splice keeps the canonical form. -/
theorem wf_splice {m : Memory} (a : Nat) (bs : List Byte) (h : Memory.wf m = true) :
    Memory.wf (m.splice a bs) = true := by
  rw [wf_iff_pairwise] at *
  unfold Memory.splice
  rw [List.pairwise_append, List.pairwise_append]
  refine ⟨⟨h.filter _, pairwise_cellsFrom _ _, ?_⟩, h.filter _, ?_⟩
  · intro c hc d hd
    have := (List.mem_filter.1 hc).2
    have := mem_cellsFrom hd
    simp at *; omega
  · intro c hc d hd
    have hd := (List.mem_filter.1 hd).2
    rcases List.mem_append.1 hc with hc | hc
    · have := (List.mem_filter.1 hc).2
      simp at *; omega
    · have := mem_cellsFrom hc
      simp at *; omega

/-- Writing words keeps the canonical form. -/
theorem wf_writeWords {m : Memory} (a : Nat) (vs : List Word) (h : Memory.wf m = true) :
    Memory.wf (m.writeWords a vs) = true := wf_splice a _ h

/-- The cells a splice leaves: old ones outside the range, or new ones inside it. -/
theorem mem_splice {m : Memory} {a : Nat} {bs : List Byte} {c : Host.Cell} (h : c ∈ m.splice a bs) :
    (a ≤ c.1 ∧ c.1 < a + bs.length) ∨ c ∈ m := by
  unfold Memory.splice at h
  rcases List.mem_append.1 h with h | h
  · rcases List.mem_append.1 h with h | h
    · exact .inr (List.mem_filter.1 h).1
    · exact .inl (mem_cellsFrom h)
  · exact .inr (List.mem_filter.1 h).1

@[simp] theorem wordBytes_length (v : Word) : (wordBytes v).length = 4 := rfl

@[simp] theorem flatMap_wordBytes_length (vs : List Word) : (vs.flatMap wordBytes).length = 4 * vs.length := by
  induction vs with
  | nil => rfl
  | cons v vs ih => simp [ih]; omega

/-- The byte at offset 4·i + j of a list of words. -/
theorem flatMap_wordBytes_getElem? (vs : List Word) (i j : Nat) (hj : j < 4) :
    (vs.flatMap wordBytes)[4 * i + j]? = (vs[i]?).bind fun v => (wordBytes v)[j]? := by
  induction vs generalizing i with
  | nil => simp
  | cons v vs ih =>
    cases i with
    | zero =>
      rw [List.flatMap_cons, List.getElem?_append_left (by simp; omega)]
      simp
    | succ i =>
      rw [List.flatMap_cons, List.getElem?_append_right (by simp; omega)]
      have : 4 * (i + 1) + j - (wordBytes v).length = 4 * i + j := by simp; omega
      rw [this, ih]; simp

/-- A word read back from its own bytes (R128). -/
@[simp] theorem wordOfBytes_wordBytes (v : Word) :
    wordOfBytes (v.extractLsb' 0 8) (v.extractLsb' 8 8) (v.extractLsb' 16 8) (v.extractLsb' 24 8) = v := by
  apply BitVec.eq_of_toNat_eq
  have := v.isLt
  simp [wordOfBytes, BitVec.extractLsb'_toNat, Nat.shiftRight_eq_div_pow]
  omega

/-- Bytes outside the written range are as before. -/
theorem byte_writeWords_of_not (m : Memory) (a : Nat) (vs : List Word) (k : Nat)
    (h : ¬ (a ≤ k ∧ k < a + 4 * vs.length)) : (m.writeWords a vs).byte k = m.byte k := by
  unfold Memory.writeWords
  rw [byte_splice, flatMap_wordBytes_length, if_neg h]

/-- The bytes of the i-th written word. -/
theorem byte_writeWords (m : Memory) (a : Nat) (vs : List Word) (i j : Nat) (hi : i < vs.length) (hj : j < 4) :
    (m.writeWords a vs).byte (a + 4 * i + j) = (wordBytes vs[i])[j]? := by
  unfold Memory.writeWords
  rw [byte_splice, if_pos (by simp; omega), show a + 4 * i + j - a = 4 * i + j by omega,
    flatMap_wordBytes_getElem? _ _ _ hj]
  simp [hi]

/-- The i-th written word reads back. -/
theorem word_writeWords (m : Memory) (a : Nat) (vs : List Word) (i : Nat) (hi : i < vs.length) :
    (m.writeWords a vs).word (a + 4 * i) = some vs[i] := by
  have h := fun j hj => byte_writeWords m a vs i j hi hj
  unfold Memory.word
  have h0 := h 0 (by omega)
  rw [Nat.add_zero] at h0
  rw [h0, h 1 (by omega), h 2 (by omega), h 3 (by omega)]
  simp [wordBytes]

/-- A word outside the written range is as before. -/
theorem word_writeWords_of_not (m : Memory) (a : Nat) (vs : List Word) (k : Nat)
    (h : k + 4 ≤ a ∨ a + 4 * vs.length ≤ k) : (m.writeWords a vs).word k = m.word k := by
  unfold Memory.word
  rw [byte_writeWords_of_not _ _ _ _ (by omega), byte_writeWords_of_not _ _ _ _ (by omega),
    byte_writeWords_of_not _ _ _ _ (by omega), byte_writeWords_of_not _ _ _ _ (by omega)]

/-- A word depends on its four bytes only. -/
theorem word_congr {m n : Memory} {a : Nat} (h : ∀ j, j < 4 → m.byte (a + j) = n.byte (a + j)) :
    m.word a = n.word a := by
  have h0 := h 0 (by omega)
  rw [Nat.add_zero] at h0
  unfold Memory.word
  rw [h0, h 1 (by omega), h 2 (by omega), h 3 (by omega)]

/-- A word holds a value exactly when its four bytes do. -/
theorem word_isSome_iff (m : Memory) (a : Nat) :
    (m.word a).isSome = true ↔ ∀ j, j < 4 → (m.byte (a + j)).isSome = true := by
  constructor
  · intro h j hj
    unfold Memory.word at h
    split at h
    · rename_i h0 h1 h2 h3
      obtain rfl | rfl | rfl | rfl : j = 0 ∨ j = 1 ∨ j = 2 ∨ j = 3 := by omega
      all_goals simp_all
    · simp at h
  · intro h
    obtain ⟨b0, h0⟩ := Option.isSome_iff_exists.1 (h 0 (by omega))
    obtain ⟨b1, h1⟩ := Option.isSome_iff_exists.1 (h 1 (by omega))
    obtain ⟨b2, h2⟩ := Option.isSome_iff_exists.1 (h 2 (by omega))
    obtain ⟨b3, h3⟩ := Option.isSome_iff_exists.1 (h 3 (by omega))
    rw [Nat.add_zero] at h0
    simp [Memory.word, h0, h1, h2, h3]

end Sys2Proof.Machine
end

