-- ==== Sys2Proof/Laws/State.lean ====
section
/-! SUPPORT. One lemma per field per update of State, each true by rfl, so that no later proof unfolds a record
update. -/

namespace Sys2Proof.Machine

/-! ### fail -/

@[simp] theorem fail_wsValid (v : Word) (e : CmdError) (s : State) : (fail v e s).wsValid = s.wsValid := rfl
@[simp] theorem fail_winValid (v : Word) (e : CmdError) (s : State) : (fail v e s).winValid = s.winValid := rfl
@[simp] theorem fail_lastOp (v : Word) (e : CmdError) (s : State) : (fail v e s).lastOp = s.lastOp := rfl
@[simp] theorem fail_irqDone (v : Word) (e : CmdError) (s : State) : (fail v e s).irqDone = s.irqDone := rfl
@[simp] theorem fail_irqErr (v : Word) (e : CmdError) (s : State) : (fail v e s).irqErr = true := rfl
@[simp] theorem fail_doneEn (v : Word) (e : CmdError) (s : State) : (fail v e s).doneEn = s.doneEn := rfl
@[simp] theorem fail_errEn (v : Word) (e : CmdError) (s : State) : (fail v e s).errEn = s.errEn := rfl
@[simp] theorem fail_errCode (v : Word) (e : CmdError) (s : State) : (fail v e s).errCode = e.code := rfl
@[simp] theorem fail_errInfo (v : Word) (e : CmdError) (s : State) : (fail v e s).errInfo = v := rfl
@[simp] theorem fail_cfgWinLen (v : Word) (e : CmdError) (s : State) : (fail v e s).cfgWinLen = s.cfgWinLen := rfl
@[simp] theorem fail_cfgHop (v : Word) (e : CmdError) (s : State) : (fail v e s).cfgHop = s.cfgHop := rfl
@[simp] theorem fail_cfgSigLen (v : Word) (e : CmdError) (s : State) : (fail v e s).cfgSigLen = s.cfgSigLen := rfl
@[simp] theorem fail_cfgEps (v : Word) (e : CmdError) (s : State) : (fail v e s).cfgEps = s.cfgEps := rfl
@[simp] theorem fail_actWinLen (v : Word) (e : CmdError) (s : State) : (fail v e s).actWinLen = s.actWinLen := rfl
@[simp] theorem fail_actHop (v : Word) (e : CmdError) (s : State) : (fail v e s).actHop = s.actHop := rfl
@[simp] theorem fail_actSigLen (v : Word) (e : CmdError) (s : State) : (fail v e s).actSigLen = s.actSigLen := rfl
@[simp] theorem fail_actEps (v : Word) (e : CmdError) (s : State) : (fail v e s).actEps = s.actEps := rfl
@[simp] theorem fail_padLen (v : Word) (e : CmdError) (s : State) : (fail v e s).padLen = s.padLen := rfl
@[simp] theorem fail_paddedLen (v : Word) (e : CmdError) (s : State) : (fail v e s).paddedLen = s.paddedLen := rfl
@[simp] theorem fail_nbFrames (v : Word) (e : CmdError) (s : State) : (fail v e s).nbFrames = s.nbFrames := rfl
@[simp] theorem fail_nbBins (v : Word) (e : CmdError) (s : State) : (fail v e s).nbBins = s.nbBins := rfl
@[simp] theorem fail_fwdScale (v : Word) (e : CmdError) (s : State) : (fail v e s).fwdScale = s.fwdScale := rfl
@[simp] theorem fail_invScale (v : Word) (e : CmdError) (s : State) : (fail v e s).invScale = s.invScale := rfl
@[simp] theorem fail_mem (v : Word) (e : CmdError) (s : State) : (fail v e s).mem = s.mem := rfl
@[simp] theorem fail_pending (v : Word) (e : CmdError) (s : State) : (fail v e s).pending = none := rfl
@[simp] theorem fail_turns (v : Word) (e : CmdError) (s : State) : (fail v e s).turns = s.turns := rfl
@[simp] theorem fail_response (v : Word) (e : CmdError) (s : State) : (fail v e s).response = s.response := rfl
@[simp] theorem fail_draws (v : Word) (e : CmdError) (s : State) : (fail v e s).draws = s.draws := rfl
@[simp] theorem fail_build (v : Word) (e : CmdError) (s : State) : (fail v e s).build = s.build := rfl
@[simp] theorem fail_gW (v : Word) (e : CmdError) (s : State) : (fail v e s).gW = s.gW := rfl
@[simp] theorem fail_gH (v : Word) (e : CmdError) (s : State) : (fail v e s).gH = s.gH := rfl
@[simp] theorem fail_gN (v : Word) (e : CmdError) (s : State) : (fail v e s).gN = s.gN := rfl
@[simp] theorem fail_gP (v : Word) (e : CmdError) (s : State) : (fail v e s).gP = s.gP := rfl
@[simp] theorem fail_gL (v : Word) (e : CmdError) (s : State) : (fail v e s).gL = s.gL := rfl
@[simp] theorem fail_gNB (v : Word) (e : CmdError) (s : State) : (fail v e s).gNB = s.gNB := rfl
@[simp] theorem fail_gNBINS (v : Word) (e : CmdError) (s : State) : (fail v e s).gNBINS = s.gNBINS := rfl

/-! ### succeed -/

@[simp] theorem succeed_wsValid (s : State) : (succeed s).wsValid = s.wsValid := rfl
@[simp] theorem succeed_winValid (s : State) : (succeed s).winValid = s.winValid := rfl
@[simp] theorem succeed_lastOp (s : State) : (succeed s).lastOp = s.lastOp := rfl
@[simp] theorem succeed_irqDone (s : State) : (succeed s).irqDone = true := rfl
@[simp] theorem succeed_irqErr (s : State) : (succeed s).irqErr = s.irqErr := rfl
@[simp] theorem succeed_doneEn (s : State) : (succeed s).doneEn = s.doneEn := rfl
@[simp] theorem succeed_errEn (s : State) : (succeed s).errEn = s.errEn := rfl
@[simp] theorem succeed_errCode (s : State) : (succeed s).errCode = 0x00#8 := rfl
@[simp] theorem succeed_errInfo (s : State) : (succeed s).errInfo = s.errInfo := rfl
@[simp] theorem succeed_cfgWinLen (s : State) : (succeed s).cfgWinLen = s.cfgWinLen := rfl
@[simp] theorem succeed_cfgHop (s : State) : (succeed s).cfgHop = s.cfgHop := rfl
@[simp] theorem succeed_cfgSigLen (s : State) : (succeed s).cfgSigLen = s.cfgSigLen := rfl
@[simp] theorem succeed_cfgEps (s : State) : (succeed s).cfgEps = s.cfgEps := rfl
@[simp] theorem succeed_actWinLen (s : State) : (succeed s).actWinLen = s.actWinLen := rfl
@[simp] theorem succeed_actHop (s : State) : (succeed s).actHop = s.actHop := rfl
@[simp] theorem succeed_actSigLen (s : State) : (succeed s).actSigLen = s.actSigLen := rfl
@[simp] theorem succeed_actEps (s : State) : (succeed s).actEps = s.actEps := rfl
@[simp] theorem succeed_padLen (s : State) : (succeed s).padLen = s.padLen := rfl
@[simp] theorem succeed_paddedLen (s : State) : (succeed s).paddedLen = s.paddedLen := rfl
@[simp] theorem succeed_nbFrames (s : State) : (succeed s).nbFrames = s.nbFrames := rfl
@[simp] theorem succeed_nbBins (s : State) : (succeed s).nbBins = s.nbBins := rfl
@[simp] theorem succeed_fwdScale (s : State) : (succeed s).fwdScale = s.fwdScale := rfl
@[simp] theorem succeed_invScale (s : State) : (succeed s).invScale = s.invScale := rfl
@[simp] theorem succeed_mem (s : State) : (succeed s).mem = s.mem := rfl
@[simp] theorem succeed_pending (s : State) : (succeed s).pending = none := rfl
@[simp] theorem succeed_turns (s : State) : (succeed s).turns = s.turns := rfl
@[simp] theorem succeed_response (s : State) : (succeed s).response = s.response := rfl
@[simp] theorem succeed_draws (s : State) : (succeed s).draws = s.draws := rfl
@[simp] theorem succeed_build (s : State) : (succeed s).build = s.build := rfl
@[simp] theorem succeed_gW (s : State) : (succeed s).gW = s.gW := rfl
@[simp] theorem succeed_gH (s : State) : (succeed s).gH = s.gH := rfl
@[simp] theorem succeed_gN (s : State) : (succeed s).gN = s.gN := rfl
@[simp] theorem succeed_gP (s : State) : (succeed s).gP = s.gP := rfl
@[simp] theorem succeed_gL (s : State) : (succeed s).gL = s.gL := rfl
@[simp] theorem succeed_gNB (s : State) : (succeed s).gNB = s.gNB := rfl
@[simp] theorem succeed_gNBINS (s : State) : (succeed s).gNBINS = s.gNBINS := rfl

/-! ### undefBuffers -/

@[simp] theorem undefBuffers_wsValid (s : State) : (undefBuffers s).wsValid = s.wsValid := rfl
@[simp] theorem undefBuffers_winValid (s : State) : (undefBuffers s).winValid = s.winValid := rfl
@[simp] theorem undefBuffers_lastOp (s : State) : (undefBuffers s).lastOp = s.lastOp := rfl
@[simp] theorem undefBuffers_irqDone (s : State) : (undefBuffers s).irqDone = s.irqDone := rfl
@[simp] theorem undefBuffers_irqErr (s : State) : (undefBuffers s).irqErr = s.irqErr := rfl
@[simp] theorem undefBuffers_doneEn (s : State) : (undefBuffers s).doneEn = s.doneEn := rfl
@[simp] theorem undefBuffers_errEn (s : State) : (undefBuffers s).errEn = s.errEn := rfl
@[simp] theorem undefBuffers_errCode (s : State) : (undefBuffers s).errCode = s.errCode := rfl
@[simp] theorem undefBuffers_errInfo (s : State) : (undefBuffers s).errInfo = s.errInfo := rfl
@[simp] theorem undefBuffers_cfgWinLen (s : State) : (undefBuffers s).cfgWinLen = s.cfgWinLen := rfl
@[simp] theorem undefBuffers_cfgHop (s : State) : (undefBuffers s).cfgHop = s.cfgHop := rfl
@[simp] theorem undefBuffers_cfgSigLen (s : State) : (undefBuffers s).cfgSigLen = s.cfgSigLen := rfl
@[simp] theorem undefBuffers_cfgEps (s : State) : (undefBuffers s).cfgEps = s.cfgEps := rfl
@[simp] theorem undefBuffers_actWinLen (s : State) : (undefBuffers s).actWinLen = s.actWinLen := rfl
@[simp] theorem undefBuffers_actHop (s : State) : (undefBuffers s).actHop = s.actHop := rfl
@[simp] theorem undefBuffers_actSigLen (s : State) : (undefBuffers s).actSigLen = s.actSigLen := rfl
@[simp] theorem undefBuffers_actEps (s : State) : (undefBuffers s).actEps = s.actEps := rfl
@[simp] theorem undefBuffers_padLen (s : State) : (undefBuffers s).padLen = s.padLen := rfl
@[simp] theorem undefBuffers_paddedLen (s : State) : (undefBuffers s).paddedLen = s.paddedLen := rfl
@[simp] theorem undefBuffers_nbFrames (s : State) : (undefBuffers s).nbFrames = s.nbFrames := rfl
@[simp] theorem undefBuffers_nbBins (s : State) : (undefBuffers s).nbBins = s.nbBins := rfl
@[simp] theorem undefBuffers_fwdScale (s : State) : (undefBuffers s).fwdScale = s.fwdScale := rfl
@[simp] theorem undefBuffers_invScale (s : State) : (undefBuffers s).invScale = s.invScale := rfl
@[simp] theorem undefBuffers_mem (s : State) : (undefBuffers s).mem = [] := rfl
@[simp] theorem undefBuffers_pending (s : State) : (undefBuffers s).pending = s.pending := rfl
@[simp] theorem undefBuffers_turns (s : State) : (undefBuffers s).turns = s.turns := rfl
@[simp] theorem undefBuffers_response (s : State) : (undefBuffers s).response = s.response := rfl
@[simp] theorem undefBuffers_draws (s : State) : (undefBuffers s).draws = s.draws := rfl
@[simp] theorem undefBuffers_build (s : State) : (undefBuffers s).build = s.build := rfl
@[simp] theorem undefBuffers_gW (s : State) : (undefBuffers s).gW = s.gW := rfl
@[simp] theorem undefBuffers_gH (s : State) : (undefBuffers s).gH = s.gH := rfl
@[simp] theorem undefBuffers_gN (s : State) : (undefBuffers s).gN = s.gN := rfl
@[simp] theorem undefBuffers_gP (s : State) : (undefBuffers s).gP = s.gP := rfl
@[simp] theorem undefBuffers_gL (s : State) : (undefBuffers s).gL = s.gL := rfl
@[simp] theorem undefBuffers_gNB (s : State) : (undefBuffers s).gNB = s.gNB := rfl
@[simp] theorem undefBuffers_gNBINS (s : State) : (undefBuffers s).gNBINS = s.gNBINS := rfl

/-! ### writeReals -/

@[simp] theorem writeReals_wsValid (b : Buffer) (n : Nat) (vs : List Word) (s : State) : (writeReals b n vs s).wsValid = s.wsValid := rfl
@[simp] theorem writeReals_winValid (b : Buffer) (n : Nat) (vs : List Word) (s : State) : (writeReals b n vs s).winValid = s.winValid := rfl
@[simp] theorem writeReals_lastOp (b : Buffer) (n : Nat) (vs : List Word) (s : State) : (writeReals b n vs s).lastOp = s.lastOp := rfl
@[simp] theorem writeReals_irqDone (b : Buffer) (n : Nat) (vs : List Word) (s : State) : (writeReals b n vs s).irqDone = s.irqDone := rfl
@[simp] theorem writeReals_irqErr (b : Buffer) (n : Nat) (vs : List Word) (s : State) : (writeReals b n vs s).irqErr = s.irqErr := rfl
@[simp] theorem writeReals_doneEn (b : Buffer) (n : Nat) (vs : List Word) (s : State) : (writeReals b n vs s).doneEn = s.doneEn := rfl
@[simp] theorem writeReals_errEn (b : Buffer) (n : Nat) (vs : List Word) (s : State) : (writeReals b n vs s).errEn = s.errEn := rfl
@[simp] theorem writeReals_errCode (b : Buffer) (n : Nat) (vs : List Word) (s : State) : (writeReals b n vs s).errCode = s.errCode := rfl
@[simp] theorem writeReals_errInfo (b : Buffer) (n : Nat) (vs : List Word) (s : State) : (writeReals b n vs s).errInfo = s.errInfo := rfl
@[simp] theorem writeReals_cfgWinLen (b : Buffer) (n : Nat) (vs : List Word) (s : State) : (writeReals b n vs s).cfgWinLen = s.cfgWinLen := rfl
@[simp] theorem writeReals_cfgHop (b : Buffer) (n : Nat) (vs : List Word) (s : State) : (writeReals b n vs s).cfgHop = s.cfgHop := rfl
@[simp] theorem writeReals_cfgSigLen (b : Buffer) (n : Nat) (vs : List Word) (s : State) : (writeReals b n vs s).cfgSigLen = s.cfgSigLen := rfl
@[simp] theorem writeReals_cfgEps (b : Buffer) (n : Nat) (vs : List Word) (s : State) : (writeReals b n vs s).cfgEps = s.cfgEps := rfl
@[simp] theorem writeReals_actWinLen (b : Buffer) (n : Nat) (vs : List Word) (s : State) : (writeReals b n vs s).actWinLen = s.actWinLen := rfl
@[simp] theorem writeReals_actHop (b : Buffer) (n : Nat) (vs : List Word) (s : State) : (writeReals b n vs s).actHop = s.actHop := rfl
@[simp] theorem writeReals_actSigLen (b : Buffer) (n : Nat) (vs : List Word) (s : State) : (writeReals b n vs s).actSigLen = s.actSigLen := rfl
@[simp] theorem writeReals_actEps (b : Buffer) (n : Nat) (vs : List Word) (s : State) : (writeReals b n vs s).actEps = s.actEps := rfl
@[simp] theorem writeReals_padLen (b : Buffer) (n : Nat) (vs : List Word) (s : State) : (writeReals b n vs s).padLen = s.padLen := rfl
@[simp] theorem writeReals_paddedLen (b : Buffer) (n : Nat) (vs : List Word) (s : State) : (writeReals b n vs s).paddedLen = s.paddedLen := rfl
@[simp] theorem writeReals_nbFrames (b : Buffer) (n : Nat) (vs : List Word) (s : State) : (writeReals b n vs s).nbFrames = s.nbFrames := rfl
@[simp] theorem writeReals_nbBins (b : Buffer) (n : Nat) (vs : List Word) (s : State) : (writeReals b n vs s).nbBins = s.nbBins := rfl
@[simp] theorem writeReals_fwdScale (b : Buffer) (n : Nat) (vs : List Word) (s : State) : (writeReals b n vs s).fwdScale = s.fwdScale := rfl
@[simp] theorem writeReals_invScale (b : Buffer) (n : Nat) (vs : List Word) (s : State) : (writeReals b n vs s).invScale = s.invScale := rfl
@[simp] theorem writeReals_mem (b : Buffer) (n : Nat) (vs : List Word) (s : State) : (writeReals b n vs s).mem = s.mem.writeWords (b.addr n) vs := rfl
@[simp] theorem writeReals_pending (b : Buffer) (n : Nat) (vs : List Word) (s : State) : (writeReals b n vs s).pending = s.pending := rfl
@[simp] theorem writeReals_turns (b : Buffer) (n : Nat) (vs : List Word) (s : State) : (writeReals b n vs s).turns = s.turns := rfl
@[simp] theorem writeReals_response (b : Buffer) (n : Nat) (vs : List Word) (s : State) : (writeReals b n vs s).response = s.response := rfl
@[simp] theorem writeReals_draws (b : Buffer) (n : Nat) (vs : List Word) (s : State) : (writeReals b n vs s).draws = s.draws := rfl
@[simp] theorem writeReals_build (b : Buffer) (n : Nat) (vs : List Word) (s : State) : (writeReals b n vs s).build = s.build := rfl
@[simp] theorem writeReals_gW (b : Buffer) (n : Nat) (vs : List Word) (s : State) : (writeReals b n vs s).gW = s.gW := rfl
@[simp] theorem writeReals_gH (b : Buffer) (n : Nat) (vs : List Word) (s : State) : (writeReals b n vs s).gH = s.gH := rfl
@[simp] theorem writeReals_gN (b : Buffer) (n : Nat) (vs : List Word) (s : State) : (writeReals b n vs s).gN = s.gN := rfl
@[simp] theorem writeReals_gP (b : Buffer) (n : Nat) (vs : List Word) (s : State) : (writeReals b n vs s).gP = s.gP := rfl
@[simp] theorem writeReals_gL (b : Buffer) (n : Nat) (vs : List Word) (s : State) : (writeReals b n vs s).gL = s.gL := rfl
@[simp] theorem writeReals_gNB (b : Buffer) (n : Nat) (vs : List Word) (s : State) : (writeReals b n vs s).gNB = s.gNB := rfl
@[simp] theorem writeReals_gNBINS (b : Buffer) (n : Nat) (vs : List Word) (s : State) : (writeReals b n vs s).gNBINS = s.gNBINS := rfl

/-! ### writeComplexes -/

@[simp] theorem writeComplexes_wsValid (b : Buffer) (n : Nat) (zs : List (Word × Word)) (s : State) : (writeComplexes b n zs s).wsValid = s.wsValid := rfl
@[simp] theorem writeComplexes_winValid (b : Buffer) (n : Nat) (zs : List (Word × Word)) (s : State) : (writeComplexes b n zs s).winValid = s.winValid := rfl
@[simp] theorem writeComplexes_lastOp (b : Buffer) (n : Nat) (zs : List (Word × Word)) (s : State) : (writeComplexes b n zs s).lastOp = s.lastOp := rfl
@[simp] theorem writeComplexes_irqDone (b : Buffer) (n : Nat) (zs : List (Word × Word)) (s : State) : (writeComplexes b n zs s).irqDone = s.irqDone := rfl
@[simp] theorem writeComplexes_irqErr (b : Buffer) (n : Nat) (zs : List (Word × Word)) (s : State) : (writeComplexes b n zs s).irqErr = s.irqErr := rfl
@[simp] theorem writeComplexes_doneEn (b : Buffer) (n : Nat) (zs : List (Word × Word)) (s : State) : (writeComplexes b n zs s).doneEn = s.doneEn := rfl
@[simp] theorem writeComplexes_errEn (b : Buffer) (n : Nat) (zs : List (Word × Word)) (s : State) : (writeComplexes b n zs s).errEn = s.errEn := rfl
@[simp] theorem writeComplexes_errCode (b : Buffer) (n : Nat) (zs : List (Word × Word)) (s : State) : (writeComplexes b n zs s).errCode = s.errCode := rfl
@[simp] theorem writeComplexes_errInfo (b : Buffer) (n : Nat) (zs : List (Word × Word)) (s : State) : (writeComplexes b n zs s).errInfo = s.errInfo := rfl
@[simp] theorem writeComplexes_cfgWinLen (b : Buffer) (n : Nat) (zs : List (Word × Word)) (s : State) : (writeComplexes b n zs s).cfgWinLen = s.cfgWinLen := rfl
@[simp] theorem writeComplexes_cfgHop (b : Buffer) (n : Nat) (zs : List (Word × Word)) (s : State) : (writeComplexes b n zs s).cfgHop = s.cfgHop := rfl
@[simp] theorem writeComplexes_cfgSigLen (b : Buffer) (n : Nat) (zs : List (Word × Word)) (s : State) : (writeComplexes b n zs s).cfgSigLen = s.cfgSigLen := rfl
@[simp] theorem writeComplexes_cfgEps (b : Buffer) (n : Nat) (zs : List (Word × Word)) (s : State) : (writeComplexes b n zs s).cfgEps = s.cfgEps := rfl
@[simp] theorem writeComplexes_actWinLen (b : Buffer) (n : Nat) (zs : List (Word × Word)) (s : State) : (writeComplexes b n zs s).actWinLen = s.actWinLen := rfl
@[simp] theorem writeComplexes_actHop (b : Buffer) (n : Nat) (zs : List (Word × Word)) (s : State) : (writeComplexes b n zs s).actHop = s.actHop := rfl
@[simp] theorem writeComplexes_actSigLen (b : Buffer) (n : Nat) (zs : List (Word × Word)) (s : State) : (writeComplexes b n zs s).actSigLen = s.actSigLen := rfl
@[simp] theorem writeComplexes_actEps (b : Buffer) (n : Nat) (zs : List (Word × Word)) (s : State) : (writeComplexes b n zs s).actEps = s.actEps := rfl
@[simp] theorem writeComplexes_padLen (b : Buffer) (n : Nat) (zs : List (Word × Word)) (s : State) : (writeComplexes b n zs s).padLen = s.padLen := rfl
@[simp] theorem writeComplexes_paddedLen (b : Buffer) (n : Nat) (zs : List (Word × Word)) (s : State) : (writeComplexes b n zs s).paddedLen = s.paddedLen := rfl
@[simp] theorem writeComplexes_nbFrames (b : Buffer) (n : Nat) (zs : List (Word × Word)) (s : State) : (writeComplexes b n zs s).nbFrames = s.nbFrames := rfl
@[simp] theorem writeComplexes_nbBins (b : Buffer) (n : Nat) (zs : List (Word × Word)) (s : State) : (writeComplexes b n zs s).nbBins = s.nbBins := rfl
@[simp] theorem writeComplexes_fwdScale (b : Buffer) (n : Nat) (zs : List (Word × Word)) (s : State) : (writeComplexes b n zs s).fwdScale = s.fwdScale := rfl
@[simp] theorem writeComplexes_invScale (b : Buffer) (n : Nat) (zs : List (Word × Word)) (s : State) : (writeComplexes b n zs s).invScale = s.invScale := rfl
@[simp] theorem writeComplexes_mem (b : Buffer) (n : Nat) (zs : List (Word × Word)) (s : State) : (writeComplexes b n zs s).mem = s.mem.writeWords (b.addr n) (zs.flatMap fun z => [z.1, z.2]) := rfl
@[simp] theorem writeComplexes_pending (b : Buffer) (n : Nat) (zs : List (Word × Word)) (s : State) : (writeComplexes b n zs s).pending = s.pending := rfl
@[simp] theorem writeComplexes_turns (b : Buffer) (n : Nat) (zs : List (Word × Word)) (s : State) : (writeComplexes b n zs s).turns = s.turns := rfl
@[simp] theorem writeComplexes_response (b : Buffer) (n : Nat) (zs : List (Word × Word)) (s : State) : (writeComplexes b n zs s).response = s.response := rfl
@[simp] theorem writeComplexes_draws (b : Buffer) (n : Nat) (zs : List (Word × Word)) (s : State) : (writeComplexes b n zs s).draws = s.draws := rfl
@[simp] theorem writeComplexes_build (b : Buffer) (n : Nat) (zs : List (Word × Word)) (s : State) : (writeComplexes b n zs s).build = s.build := rfl
@[simp] theorem writeComplexes_gW (b : Buffer) (n : Nat) (zs : List (Word × Word)) (s : State) : (writeComplexes b n zs s).gW = s.gW := rfl
@[simp] theorem writeComplexes_gH (b : Buffer) (n : Nat) (zs : List (Word × Word)) (s : State) : (writeComplexes b n zs s).gH = s.gH := rfl
@[simp] theorem writeComplexes_gN (b : Buffer) (n : Nat) (zs : List (Word × Word)) (s : State) : (writeComplexes b n zs s).gN = s.gN := rfl
@[simp] theorem writeComplexes_gP (b : Buffer) (n : Nat) (zs : List (Word × Word)) (s : State) : (writeComplexes b n zs s).gP = s.gP := rfl
@[simp] theorem writeComplexes_gL (b : Buffer) (n : Nat) (zs : List (Word × Word)) (s : State) : (writeComplexes b n zs s).gL = s.gL := rfl
@[simp] theorem writeComplexes_gNB (b : Buffer) (n : Nat) (zs : List (Word × Word)) (s : State) : (writeComplexes b n zs s).gNB = s.gNB := rfl
@[simp] theorem writeComplexes_gNBINS (b : Buffer) (n : Nat) (zs : List (Word × Word)) (s : State) : (writeComplexes b n zs s).gNBINS = s.gNBINS := rfl

/-! ### latchGeometry -/

@[simp] theorem latchGeometry_wsValid (s : State) : (latchGeometry s).wsValid = true := rfl
@[simp] theorem latchGeometry_winValid (s : State) : (latchGeometry s).winValid = false := rfl
@[simp] theorem latchGeometry_lastOp (s : State) : (latchGeometry s).lastOp = s.lastOp := rfl
@[simp] theorem latchGeometry_irqDone (s : State) : (latchGeometry s).irqDone = s.irqDone := rfl
@[simp] theorem latchGeometry_irqErr (s : State) : (latchGeometry s).irqErr = s.irqErr := rfl
@[simp] theorem latchGeometry_doneEn (s : State) : (latchGeometry s).doneEn = s.doneEn := rfl
@[simp] theorem latchGeometry_errEn (s : State) : (latchGeometry s).errEn = s.errEn := rfl
@[simp] theorem latchGeometry_errCode (s : State) : (latchGeometry s).errCode = s.errCode := rfl
@[simp] theorem latchGeometry_errInfo (s : State) : (latchGeometry s).errInfo = s.errInfo := rfl
@[simp] theorem latchGeometry_cfgWinLen (s : State) : (latchGeometry s).cfgWinLen = s.cfgWinLen := rfl
@[simp] theorem latchGeometry_cfgHop (s : State) : (latchGeometry s).cfgHop = s.cfgHop := rfl
@[simp] theorem latchGeometry_cfgSigLen (s : State) : (latchGeometry s).cfgSigLen = s.cfgSigLen := rfl
@[simp] theorem latchGeometry_cfgEps (s : State) : (latchGeometry s).cfgEps = s.cfgEps := rfl
@[simp] theorem latchGeometry_actWinLen (s : State) : (latchGeometry s).actWinLen = s.wsCfg.winLen := rfl
@[simp] theorem latchGeometry_actHop (s : State) : (latchGeometry s).actHop = s.wsCfg.hop := rfl
@[simp] theorem latchGeometry_actSigLen (s : State) : (latchGeometry s).actSigLen = s.wsCfg.sigLen := rfl
@[simp] theorem latchGeometry_actEps (s : State) : (latchGeometry s).actEps = s.wsCfg.eps := rfl
@[simp] theorem latchGeometry_padLen (s : State) : (latchGeometry s).padLen = BitVec.ofNat 32 (s.wsCfg.winLen.toNat / 2) := rfl
@[simp] theorem latchGeometry_paddedLen (s : State) : (latchGeometry s).paddedLen = BitVec.ofNat 32 (s.wsCfg.sigLen.toNat + 2 * (s.wsCfg.winLen.toNat / 2)) := rfl
@[simp] theorem latchGeometry_nbFrames (s : State) : (latchGeometry s).nbFrames = BitVec.ofNat 32 (s.wsCfg.sigLen.toNat / s.wsCfg.hop.toNat + 1) := rfl
@[simp] theorem latchGeometry_nbBins (s : State) : (latchGeometry s).nbBins = BitVec.ofNat 32 (s.wsCfg.winLen.toNat / 2 + 1) := rfl
@[simp] theorem latchGeometry_fwdScale (s : State) : (latchGeometry s).fwdScale = fwdScaleOf s.wsCfg.winLen.toNat := rfl
@[simp] theorem latchGeometry_invScale (s : State) : (latchGeometry s).invScale = invScaleOf s.wsCfg.winLen.toNat := rfl
@[simp] theorem latchGeometry_mem (s : State) : (latchGeometry s).mem = s.mem := rfl
@[simp] theorem latchGeometry_pending (s : State) : (latchGeometry s).pending = s.pending := rfl
@[simp] theorem latchGeometry_turns (s : State) : (latchGeometry s).turns = s.turns := rfl
@[simp] theorem latchGeometry_response (s : State) : (latchGeometry s).response = s.response := rfl
@[simp] theorem latchGeometry_draws (s : State) : (latchGeometry s).draws = s.draws := rfl
@[simp] theorem latchGeometry_build (s : State) : (latchGeometry s).build = s.build := rfl

/-! ### resetHardware -/

@[simp] theorem resetHardware_wsValid (s : State) : (resetHardware s).wsValid = State.reset.wsValid := rfl
@[simp] theorem resetHardware_winValid (s : State) : (resetHardware s).winValid = State.reset.winValid := rfl
@[simp] theorem resetHardware_lastOp (s : State) : (resetHardware s).lastOp = State.reset.lastOp := rfl
@[simp] theorem resetHardware_irqDone (s : State) : (resetHardware s).irqDone = State.reset.irqDone := rfl
@[simp] theorem resetHardware_irqErr (s : State) : (resetHardware s).irqErr = State.reset.irqErr := rfl
@[simp] theorem resetHardware_doneEn (s : State) : (resetHardware s).doneEn = State.reset.doneEn := rfl
@[simp] theorem resetHardware_errEn (s : State) : (resetHardware s).errEn = State.reset.errEn := rfl
@[simp] theorem resetHardware_errCode (s : State) : (resetHardware s).errCode = State.reset.errCode := rfl
@[simp] theorem resetHardware_errInfo (s : State) : (resetHardware s).errInfo = State.reset.errInfo := rfl
@[simp] theorem resetHardware_cfgWinLen (s : State) : (resetHardware s).cfgWinLen = State.reset.cfgWinLen := rfl
@[simp] theorem resetHardware_cfgHop (s : State) : (resetHardware s).cfgHop = State.reset.cfgHop := rfl
@[simp] theorem resetHardware_cfgSigLen (s : State) : (resetHardware s).cfgSigLen = State.reset.cfgSigLen := rfl
@[simp] theorem resetHardware_cfgEps (s : State) : (resetHardware s).cfgEps = State.reset.cfgEps := rfl
@[simp] theorem resetHardware_actWinLen (s : State) : (resetHardware s).actWinLen = State.reset.actWinLen := rfl
@[simp] theorem resetHardware_actHop (s : State) : (resetHardware s).actHop = State.reset.actHop := rfl
@[simp] theorem resetHardware_actSigLen (s : State) : (resetHardware s).actSigLen = State.reset.actSigLen := rfl
@[simp] theorem resetHardware_actEps (s : State) : (resetHardware s).actEps = State.reset.actEps := rfl
@[simp] theorem resetHardware_padLen (s : State) : (resetHardware s).padLen = State.reset.padLen := rfl
@[simp] theorem resetHardware_paddedLen (s : State) : (resetHardware s).paddedLen = State.reset.paddedLen := rfl
@[simp] theorem resetHardware_nbFrames (s : State) : (resetHardware s).nbFrames = State.reset.nbFrames := rfl
@[simp] theorem resetHardware_nbBins (s : State) : (resetHardware s).nbBins = State.reset.nbBins := rfl
@[simp] theorem resetHardware_fwdScale (s : State) : (resetHardware s).fwdScale = State.reset.fwdScale := rfl
@[simp] theorem resetHardware_invScale (s : State) : (resetHardware s).invScale = State.reset.invScale := rfl
@[simp] theorem resetHardware_mem (s : State) : (resetHardware s).mem = State.reset.mem := rfl
@[simp] theorem resetHardware_pending (s : State) : (resetHardware s).pending = State.reset.pending := rfl
@[simp] theorem resetHardware_turns (s : State) : (resetHardware s).turns = s.turns := rfl
@[simp] theorem resetHardware_response (s : State) : (resetHardware s).response = s.response := rfl
@[simp] theorem resetHardware_draws (s : State) : (resetHardware s).draws = s.draws := rfl
@[simp] theorem resetHardware_build (s : State) : (resetHardware s).build = s.build := rfl

/-! ### ackIrq -/

@[simp] theorem ackIrq_wsValid (v : Word) (s : State) : (ackIrq v s).wsValid = s.wsValid := rfl
@[simp] theorem ackIrq_winValid (v : Word) (s : State) : (ackIrq v s).winValid = s.winValid := rfl
@[simp] theorem ackIrq_lastOp (v : Word) (s : State) : (ackIrq v s).lastOp = s.lastOp := rfl
@[simp] theorem ackIrq_irqDone (v : Word) (s : State) : (ackIrq v s).irqDone = (s.irqDone && !v.getLsbD 0) := rfl
@[simp] theorem ackIrq_irqErr (v : Word) (s : State) : (ackIrq v s).irqErr = (s.irqErr && !v.getLsbD 1) := rfl
@[simp] theorem ackIrq_doneEn (v : Word) (s : State) : (ackIrq v s).doneEn = s.doneEn := rfl
@[simp] theorem ackIrq_errEn (v : Word) (s : State) : (ackIrq v s).errEn = s.errEn := rfl
@[simp] theorem ackIrq_errCode (v : Word) (s : State) : (ackIrq v s).errCode = s.errCode := rfl
@[simp] theorem ackIrq_errInfo (v : Word) (s : State) : (ackIrq v s).errInfo = s.errInfo := rfl
@[simp] theorem ackIrq_cfgWinLen (v : Word) (s : State) : (ackIrq v s).cfgWinLen = s.cfgWinLen := rfl
@[simp] theorem ackIrq_cfgHop (v : Word) (s : State) : (ackIrq v s).cfgHop = s.cfgHop := rfl
@[simp] theorem ackIrq_cfgSigLen (v : Word) (s : State) : (ackIrq v s).cfgSigLen = s.cfgSigLen := rfl
@[simp] theorem ackIrq_cfgEps (v : Word) (s : State) : (ackIrq v s).cfgEps = s.cfgEps := rfl
@[simp] theorem ackIrq_actWinLen (v : Word) (s : State) : (ackIrq v s).actWinLen = s.actWinLen := rfl
@[simp] theorem ackIrq_actHop (v : Word) (s : State) : (ackIrq v s).actHop = s.actHop := rfl
@[simp] theorem ackIrq_actSigLen (v : Word) (s : State) : (ackIrq v s).actSigLen = s.actSigLen := rfl
@[simp] theorem ackIrq_actEps (v : Word) (s : State) : (ackIrq v s).actEps = s.actEps := rfl
@[simp] theorem ackIrq_padLen (v : Word) (s : State) : (ackIrq v s).padLen = s.padLen := rfl
@[simp] theorem ackIrq_paddedLen (v : Word) (s : State) : (ackIrq v s).paddedLen = s.paddedLen := rfl
@[simp] theorem ackIrq_nbFrames (v : Word) (s : State) : (ackIrq v s).nbFrames = s.nbFrames := rfl
@[simp] theorem ackIrq_nbBins (v : Word) (s : State) : (ackIrq v s).nbBins = s.nbBins := rfl
@[simp] theorem ackIrq_fwdScale (v : Word) (s : State) : (ackIrq v s).fwdScale = s.fwdScale := rfl
@[simp] theorem ackIrq_invScale (v : Word) (s : State) : (ackIrq v s).invScale = s.invScale := rfl
@[simp] theorem ackIrq_mem (v : Word) (s : State) : (ackIrq v s).mem = s.mem := rfl
@[simp] theorem ackIrq_pending (v : Word) (s : State) : (ackIrq v s).pending = s.pending := rfl
@[simp] theorem ackIrq_turns (v : Word) (s : State) : (ackIrq v s).turns = s.turns := rfl
@[simp] theorem ackIrq_response (v : Word) (s : State) : (ackIrq v s).response = s.response := rfl
@[simp] theorem ackIrq_draws (v : Word) (s : State) : (ackIrq v s).draws = s.draws := rfl
@[simp] theorem ackIrq_build (v : Word) (s : State) : (ackIrq v s).build = s.build := rfl

/-! ### setIrqEn -/

@[simp] theorem setIrqEn_wsValid (v : Word) (s : State) : (setIrqEn v s).wsValid = s.wsValid := rfl
@[simp] theorem setIrqEn_winValid (v : Word) (s : State) : (setIrqEn v s).winValid = s.winValid := rfl
@[simp] theorem setIrqEn_lastOp (v : Word) (s : State) : (setIrqEn v s).lastOp = s.lastOp := rfl
@[simp] theorem setIrqEn_irqDone (v : Word) (s : State) : (setIrqEn v s).irqDone = s.irqDone := rfl
@[simp] theorem setIrqEn_irqErr (v : Word) (s : State) : (setIrqEn v s).irqErr = s.irqErr := rfl
@[simp] theorem setIrqEn_doneEn (v : Word) (s : State) : (setIrqEn v s).doneEn = v.getLsbD 0 := rfl
@[simp] theorem setIrqEn_errEn (v : Word) (s : State) : (setIrqEn v s).errEn = v.getLsbD 1 := rfl
@[simp] theorem setIrqEn_errCode (v : Word) (s : State) : (setIrqEn v s).errCode = s.errCode := rfl
@[simp] theorem setIrqEn_errInfo (v : Word) (s : State) : (setIrqEn v s).errInfo = s.errInfo := rfl
@[simp] theorem setIrqEn_cfgWinLen (v : Word) (s : State) : (setIrqEn v s).cfgWinLen = s.cfgWinLen := rfl
@[simp] theorem setIrqEn_cfgHop (v : Word) (s : State) : (setIrqEn v s).cfgHop = s.cfgHop := rfl
@[simp] theorem setIrqEn_cfgSigLen (v : Word) (s : State) : (setIrqEn v s).cfgSigLen = s.cfgSigLen := rfl
@[simp] theorem setIrqEn_cfgEps (v : Word) (s : State) : (setIrqEn v s).cfgEps = s.cfgEps := rfl
@[simp] theorem setIrqEn_actWinLen (v : Word) (s : State) : (setIrqEn v s).actWinLen = s.actWinLen := rfl
@[simp] theorem setIrqEn_actHop (v : Word) (s : State) : (setIrqEn v s).actHop = s.actHop := rfl
@[simp] theorem setIrqEn_actSigLen (v : Word) (s : State) : (setIrqEn v s).actSigLen = s.actSigLen := rfl
@[simp] theorem setIrqEn_actEps (v : Word) (s : State) : (setIrqEn v s).actEps = s.actEps := rfl
@[simp] theorem setIrqEn_padLen (v : Word) (s : State) : (setIrqEn v s).padLen = s.padLen := rfl
@[simp] theorem setIrqEn_paddedLen (v : Word) (s : State) : (setIrqEn v s).paddedLen = s.paddedLen := rfl
@[simp] theorem setIrqEn_nbFrames (v : Word) (s : State) : (setIrqEn v s).nbFrames = s.nbFrames := rfl
@[simp] theorem setIrqEn_nbBins (v : Word) (s : State) : (setIrqEn v s).nbBins = s.nbBins := rfl
@[simp] theorem setIrqEn_fwdScale (v : Word) (s : State) : (setIrqEn v s).fwdScale = s.fwdScale := rfl
@[simp] theorem setIrqEn_invScale (v : Word) (s : State) : (setIrqEn v s).invScale = s.invScale := rfl
@[simp] theorem setIrqEn_mem (v : Word) (s : State) : (setIrqEn v s).mem = s.mem := rfl
@[simp] theorem setIrqEn_pending (v : Word) (s : State) : (setIrqEn v s).pending = s.pending := rfl
@[simp] theorem setIrqEn_turns (v : Word) (s : State) : (setIrqEn v s).turns = s.turns := rfl
@[simp] theorem setIrqEn_response (v : Word) (s : State) : (setIrqEn v s).response = s.response := rfl
@[simp] theorem setIrqEn_draws (v : Word) (s : State) : (setIrqEn v s).draws = s.draws := rfl
@[simp] theorem setIrqEn_build (v : Word) (s : State) : (setIrqEn v s).build = s.build := rfl

/-! ### acceptCommand -/

@[simp] theorem acceptCommand_wsValid (v : Word) (s : State) : (acceptCommand v s).wsValid = s.wsValid := rfl
@[simp] theorem acceptCommand_winValid (v : Word) (s : State) : (acceptCommand v s).winValid = s.winValid := rfl
@[simp] theorem acceptCommand_lastOp (v : Word) (s : State) : (acceptCommand v s).lastOp = v.extractLsb' 0 8 := rfl
@[simp] theorem acceptCommand_irqDone (v : Word) (s : State) : (acceptCommand v s).irqDone = s.irqDone := rfl
@[simp] theorem acceptCommand_irqErr (v : Word) (s : State) : (acceptCommand v s).irqErr = s.irqErr := rfl
@[simp] theorem acceptCommand_doneEn (v : Word) (s : State) : (acceptCommand v s).doneEn = s.doneEn := rfl
@[simp] theorem acceptCommand_errEn (v : Word) (s : State) : (acceptCommand v s).errEn = s.errEn := rfl
@[simp] theorem acceptCommand_errCode (v : Word) (s : State) : (acceptCommand v s).errCode = s.errCode := rfl
@[simp] theorem acceptCommand_errInfo (v : Word) (s : State) : (acceptCommand v s).errInfo = s.errInfo := rfl
@[simp] theorem acceptCommand_cfgWinLen (v : Word) (s : State) : (acceptCommand v s).cfgWinLen = s.cfgWinLen := rfl
@[simp] theorem acceptCommand_cfgHop (v : Word) (s : State) : (acceptCommand v s).cfgHop = s.cfgHop := rfl
@[simp] theorem acceptCommand_cfgSigLen (v : Word) (s : State) : (acceptCommand v s).cfgSigLen = s.cfgSigLen := rfl
@[simp] theorem acceptCommand_cfgEps (v : Word) (s : State) : (acceptCommand v s).cfgEps = s.cfgEps := rfl
@[simp] theorem acceptCommand_actWinLen (v : Word) (s : State) : (acceptCommand v s).actWinLen = s.actWinLen := rfl
@[simp] theorem acceptCommand_actHop (v : Word) (s : State) : (acceptCommand v s).actHop = s.actHop := rfl
@[simp] theorem acceptCommand_actSigLen (v : Word) (s : State) : (acceptCommand v s).actSigLen = s.actSigLen := rfl
@[simp] theorem acceptCommand_actEps (v : Word) (s : State) : (acceptCommand v s).actEps = s.actEps := rfl
@[simp] theorem acceptCommand_padLen (v : Word) (s : State) : (acceptCommand v s).padLen = s.padLen := rfl
@[simp] theorem acceptCommand_paddedLen (v : Word) (s : State) : (acceptCommand v s).paddedLen = s.paddedLen := rfl
@[simp] theorem acceptCommand_nbFrames (v : Word) (s : State) : (acceptCommand v s).nbFrames = s.nbFrames := rfl
@[simp] theorem acceptCommand_nbBins (v : Word) (s : State) : (acceptCommand v s).nbBins = s.nbBins := rfl
@[simp] theorem acceptCommand_fwdScale (v : Word) (s : State) : (acceptCommand v s).fwdScale = s.fwdScale := rfl
@[simp] theorem acceptCommand_invScale (v : Word) (s : State) : (acceptCommand v s).invScale = s.invScale := rfl
@[simp] theorem acceptCommand_mem (v : Word) (s : State) : (acceptCommand v s).mem = s.mem := rfl
@[simp] theorem acceptCommand_pending (v : Word) (s : State) : (acceptCommand v s).pending = some ⟨v, s.cfgRegs⟩ := rfl
@[simp] theorem acceptCommand_turns (v : Word) (s : State) : (acceptCommand v s).turns = s.turns := rfl
@[simp] theorem acceptCommand_response (v : Word) (s : State) : (acceptCommand v s).response = s.response := rfl
@[simp] theorem acceptCommand_draws (v : Word) (s : State) : (acceptCommand v s).draws = s.draws := rfl
@[simp] theorem acceptCommand_build (v : Word) (s : State) : (acceptCommand v s).build = s.build := rfl

/-! ### respond -/

@[simp] theorem respond_wsValid (v : Word) (s : State) : (respond v s).wsValid = s.wsValid := rfl
@[simp] theorem respond_winValid (v : Word) (s : State) : (respond v s).winValid = s.winValid := rfl
@[simp] theorem respond_lastOp (v : Word) (s : State) : (respond v s).lastOp = s.lastOp := rfl
@[simp] theorem respond_irqDone (v : Word) (s : State) : (respond v s).irqDone = s.irqDone := rfl
@[simp] theorem respond_irqErr (v : Word) (s : State) : (respond v s).irqErr = s.irqErr := rfl
@[simp] theorem respond_doneEn (v : Word) (s : State) : (respond v s).doneEn = s.doneEn := rfl
@[simp] theorem respond_errEn (v : Word) (s : State) : (respond v s).errEn = s.errEn := rfl
@[simp] theorem respond_errCode (v : Word) (s : State) : (respond v s).errCode = s.errCode := rfl
@[simp] theorem respond_errInfo (v : Word) (s : State) : (respond v s).errInfo = s.errInfo := rfl
@[simp] theorem respond_cfgWinLen (v : Word) (s : State) : (respond v s).cfgWinLen = s.cfgWinLen := rfl
@[simp] theorem respond_cfgHop (v : Word) (s : State) : (respond v s).cfgHop = s.cfgHop := rfl
@[simp] theorem respond_cfgSigLen (v : Word) (s : State) : (respond v s).cfgSigLen = s.cfgSigLen := rfl
@[simp] theorem respond_cfgEps (v : Word) (s : State) : (respond v s).cfgEps = s.cfgEps := rfl
@[simp] theorem respond_actWinLen (v : Word) (s : State) : (respond v s).actWinLen = s.actWinLen := rfl
@[simp] theorem respond_actHop (v : Word) (s : State) : (respond v s).actHop = s.actHop := rfl
@[simp] theorem respond_actSigLen (v : Word) (s : State) : (respond v s).actSigLen = s.actSigLen := rfl
@[simp] theorem respond_actEps (v : Word) (s : State) : (respond v s).actEps = s.actEps := rfl
@[simp] theorem respond_padLen (v : Word) (s : State) : (respond v s).padLen = s.padLen := rfl
@[simp] theorem respond_paddedLen (v : Word) (s : State) : (respond v s).paddedLen = s.paddedLen := rfl
@[simp] theorem respond_nbFrames (v : Word) (s : State) : (respond v s).nbFrames = s.nbFrames := rfl
@[simp] theorem respond_nbBins (v : Word) (s : State) : (respond v s).nbBins = s.nbBins := rfl
@[simp] theorem respond_fwdScale (v : Word) (s : State) : (respond v s).fwdScale = s.fwdScale := rfl
@[simp] theorem respond_invScale (v : Word) (s : State) : (respond v s).invScale = s.invScale := rfl
@[simp] theorem respond_mem (v : Word) (s : State) : (respond v s).mem = s.mem := rfl
@[simp] theorem respond_pending (v : Word) (s : State) : (respond v s).pending = s.pending := rfl
@[simp] theorem respond_turns (v : Word) (s : State) : (respond v s).turns = s.turns := rfl
@[simp] theorem respond_response (v : Word) (s : State) : (respond v s).response = some ⟨false, v⟩ := rfl
@[simp] theorem respond_draws (v : Word) (s : State) : (respond v s).draws = s.draws := rfl
@[simp] theorem respond_build (v : Word) (s : State) : (respond v s).build = s.build := rfl

/-! ### respondError -/

@[simp] theorem respondError_wsValid (s : State) : (respondError s).wsValid = s.wsValid := rfl
@[simp] theorem respondError_winValid (s : State) : (respondError s).winValid = s.winValid := rfl
@[simp] theorem respondError_lastOp (s : State) : (respondError s).lastOp = s.lastOp := rfl
@[simp] theorem respondError_irqDone (s : State) : (respondError s).irqDone = s.irqDone := rfl
@[simp] theorem respondError_irqErr (s : State) : (respondError s).irqErr = s.irqErr := rfl
@[simp] theorem respondError_doneEn (s : State) : (respondError s).doneEn = s.doneEn := rfl
@[simp] theorem respondError_errEn (s : State) : (respondError s).errEn = s.errEn := rfl
@[simp] theorem respondError_errCode (s : State) : (respondError s).errCode = s.errCode := rfl
@[simp] theorem respondError_errInfo (s : State) : (respondError s).errInfo = s.errInfo := rfl
@[simp] theorem respondError_cfgWinLen (s : State) : (respondError s).cfgWinLen = s.cfgWinLen := rfl
@[simp] theorem respondError_cfgHop (s : State) : (respondError s).cfgHop = s.cfgHop := rfl
@[simp] theorem respondError_cfgSigLen (s : State) : (respondError s).cfgSigLen = s.cfgSigLen := rfl
@[simp] theorem respondError_cfgEps (s : State) : (respondError s).cfgEps = s.cfgEps := rfl
@[simp] theorem respondError_actWinLen (s : State) : (respondError s).actWinLen = s.actWinLen := rfl
@[simp] theorem respondError_actHop (s : State) : (respondError s).actHop = s.actHop := rfl
@[simp] theorem respondError_actSigLen (s : State) : (respondError s).actSigLen = s.actSigLen := rfl
@[simp] theorem respondError_actEps (s : State) : (respondError s).actEps = s.actEps := rfl
@[simp] theorem respondError_padLen (s : State) : (respondError s).padLen = s.padLen := rfl
@[simp] theorem respondError_paddedLen (s : State) : (respondError s).paddedLen = s.paddedLen := rfl
@[simp] theorem respondError_nbFrames (s : State) : (respondError s).nbFrames = s.nbFrames := rfl
@[simp] theorem respondError_nbBins (s : State) : (respondError s).nbBins = s.nbBins := rfl
@[simp] theorem respondError_fwdScale (s : State) : (respondError s).fwdScale = s.fwdScale := rfl
@[simp] theorem respondError_invScale (s : State) : (respondError s).invScale = s.invScale := rfl
@[simp] theorem respondError_mem (s : State) : (respondError s).mem = s.mem := rfl
@[simp] theorem respondError_pending (s : State) : (respondError s).pending = s.pending := rfl
@[simp] theorem respondError_turns (s : State) : (respondError s).turns = s.turns := rfl
@[simp] theorem respondError_response (s : State) : (respondError s).response = some ⟨true, 0x00000000#32⟩ := rfl
@[simp] theorem respondError_draws (s : State) : (respondError s).draws = s.draws := rfl
@[simp] theorem respondError_build (s : State) : (respondError s).build = s.build := rfl

/-! ### The CFG values a WS_INIT reads -/

@[simp] theorem acceptCommand_wsCfg (v : Word) (s : State) : (acceptCommand v s).wsCfg = s.cfgRegs := rfl
@[simp] theorem acceptCommand_cfgRegs (v : Word) (s : State) : (acceptCommand v s).cfgRegs = s.cfgRegs := rfl
@[simp] theorem respond_wsCfg (v : Word) (s : State) : (respond v s).wsCfg = s.wsCfg := rfl
@[simp] theorem respondError_wsCfg (s : State) : (respondError s).wsCfg = s.wsCfg := rfl
theorem wsCfg_of_idle {s : State} (h : s.pending = none) : s.wsCfg = s.cfgRegs := by simp [State.wsCfg, h]
theorem wsCfg_of_pending {s : State} {p : Pending} (h : s.pending = some p) : s.wsCfg = p.cfg := by
  simp [State.wsCfg, h]

end Sys2Proof.Machine
end

