-- ==== Sys2Proof/Laws/Ops.lean ====
section
/-! SUPPORT. For each shared operation one lemma that says once everything it can do. -/

namespace Sys2Proof.Machine

/-! ### Sequencing and indices -/

/-- A sequence of two bodies answers exactly when both do. -/
theorem bind_ok_iff {ε α β : Type} (x : Except ε α) (f : α → Except ε β) (b : β) :
    (x >>= f) = .ok b ↔ ∃ a, x = .ok a ∧ f a = .ok b := by
  cases x <;> simp [bind, Except.bind]

@[simp] theorem indices_length (start n : Nat) : (indices start n).length = n := by simp [indices]

@[simp] theorem indices_getElem (start n i : Nat) (h : i < (indices start n).length) :
    (indices start n)[i] = start + i := by simp [indices]

/-! ### Reading and writing elements -/

theorem byteAt_eq (s : State) (a : Nat) : s.byteAt a = s.mem.byte a := rfl

/-- What reading a list of elements of a real buffer answers. -/
theorem readReals_ok_iff (cmd : Instr) (b : Buffer) (s : State) (es : List Nat) (vs : List Word) :
    readReals cmd b s es = .ok vs ↔ es.map (s.realAt b) = vs.map some := by
  induction es generalizing vs with
  | nil => cases vs <;> simp [readReals]
  | cons e es ih =>
    cases vs with
    | nil => cases h : s.realAt b e <;> simp [readReals, h]; split <;> simp
    | cons v vs =>
      cases h : s.realAt b e with
      | none => simp [readReals, h]
      | some w =>
        cases hr : readReals cmd b s es with
        | error r =>
          have := ih vs
          simp only [hr] at this
          simp only [readReals, h, hr, List.map_cons, List.cons.injEq]
          constructor
          · intro h; cases h
          · rintro ⟨-, h⟩; exact absurd (this.2 h) (by simp)
        | ok us =>
          have := ih vs
          rw [hr] at this
          simp only [readReals, h, hr, List.map_cons, List.cons.injEq, Except.ok.injEq] at this ⊢
          rw [this]; simp

/-- Reading consecutive elements answers the list they hold. -/
theorem readReals_indices_iff (cmd : Instr) (b : Buffer) (s : State) (start n : Nat) (vs : List Word) :
    readReals cmd b s (indices start n) = .ok vs ↔ vs.length = n ∧ s.ReadsAs b start vs := by
  rw [readReals_ok_iff, indices, List.map_map]
  constructor
  · intro h
    have hl : n = vs.length := by simpa using congrArg List.length h
    refine ⟨hl.symm, fun i hi => ?_⟩
    have := congrArg (·[i]?) h
    simp [hi, hl] at this
    simp [this, hi]
  · rintro ⟨rfl, h⟩
    apply List.ext_getElem (by simp)
    intro i hi _
    have hi : i < vs.length := by simpa using hi
    have := h i hi
    simp only [List.getElem?_eq_getElem hi] at this
    simp [this]

/-- The same for a complex buffer. -/
theorem readComplexes_ok_iff (cmd : Instr) (b : Buffer) (s : State) (es : List Nat) (zs : List (Word × Word)) :
    readComplexes cmd b s es = .ok zs ↔ es.map (s.complexAt b) = zs.map some := by
  induction es generalizing zs with
  | nil => cases zs <;> simp [readComplexes]
  | cons e es ih =>
    cases zs with
    | nil => cases h : s.complexAt b e <;> simp [readComplexes, h]; split <;> simp
    | cons v vs =>
      cases h : s.complexAt b e with
      | none => simp [readComplexes, h]
      | some w =>
        cases hr : readComplexes cmd b s es with
        | error r =>
          have := ih vs
          simp only [hr] at this
          simp only [readComplexes, h, hr, List.map_cons, List.cons.injEq]
          constructor
          · intro h; cases h
          · rintro ⟨-, h⟩; exact absurd (this.2 h) (by simp)
        | ok us =>
          have := ih vs
          rw [hr] at this
          simp only [readComplexes, h, hr, List.map_cons, List.cons.injEq, Except.ok.injEq] at this ⊢
          rw [this]; simp

@[inherit_doc readReals_indices_iff]
theorem readComplexes_indices_iff (cmd : Instr) (b : Buffer) (s : State) (start n : Nat)
    (zs : List (Word × Word)) :
    readComplexes cmd b s (indices start n) = .ok zs ↔ zs.length = n ∧ s.ReadsComplexAs b start zs := by
  rw [readComplexes_ok_iff, indices, List.map_map]
  constructor
  · intro h
    have hl : n = zs.length := by simpa using congrArg List.length h
    refine ⟨hl.symm, fun i hi => ?_⟩
    have := congrArg (·[i]?) h
    simp [hi, hl] at this
    simp [this, hi]
  · rintro ⟨rfl, h⟩
    apply List.ext_getElem (by simp)
    intro i hi _
    have hi : i < zs.length := by simpa using hi
    have := h i hi
    simp only [List.getElem?_eq_getElem hi] at this
    simp [this]

/-- Reading depends only on what the elements hold, whatever command reads. -/
theorem readReals_congr {cmd : Instr} {b : Buffer} {s t : State} {es : List Nat}
    (h : ∀ e ∈ es, s.realAt b e = t.realAt b e) : readReals cmd b s es = readReals cmd b t es := by
  induction es with
  | nil => rfl
  | cons e es ih =>
    simp only [readReals, h e (by simp), ih fun e he => h e (List.mem_cons_of_mem _ he)]

@[inherit_doc readReals_congr]
theorem readComplexes_congr {cmd : Instr} {b : Buffer} {s t : State} {es : List Nat}
    (h : ∀ e ∈ es, s.complexAt b e = t.complexAt b e) : readComplexes cmd b s es = readComplexes cmd b t es := by
  induction es with
  | nil => rfl
  | cons e es ih =>
    simp only [readComplexes, h e (by simp), ih fun e he => h e (List.mem_cons_of_mem _ he)]

theorem addr_real {b : Buffer} (h : b.elemSize = 4) (e i : Nat) : b.addr (e + i) = b.addr e + 4 * i := by
  simp [Buffer.addr, h]; omega

theorem addr_complex {b : Buffer} (h : b.elemSize = 8) (e i : Nat) : b.addr (e + i) = b.addr e + 8 * i := by
  simp [Buffer.addr, h]; omega

/-- Bytes a write of real elements leaves alone. -/
theorem byteAt_writeReals_of_not (b : Buffer) (hb : b.elemSize = 4) (start a : Nat) (vs : List Word) (s : State)
    (h : ¬ b.Covers start vs.length a) : (writeReals b start vs s).byteAt a = s.byteAt a := by
  apply byte_writeWords_of_not
  simpa [Buffer.Covers, addr_real hb] using h

/-- The written real elements read back. -/
theorem realAt_writeReals (b : Buffer) (hb : b.elemSize = 4) (start : Nat) (vs : List Word) (s : State) :
    (writeReals b start vs s).ReadsAs b start vs := by
  intro i hi
  simp only [State.realAt, writeReals_mem, addr_real hb, word_writeWords _ _ _ _ hi, List.getElem?_eq_getElem hi]

theorem pairs_length (zs : List (Word × Word)) :
    (zs.flatMap fun z => [z.1, z.2]).length = 2 * zs.length := by
  induction zs with
  | nil => rfl
  | cons z zs ih => simp [ih]; omega

theorem pairs_getElem? (zs : List (Word × Word)) (i : Nat) (hi : i < zs.length) :
    (zs.flatMap fun z => [z.1, z.2])[2 * i]? = some zs[i].1 ∧
      (zs.flatMap fun z => [z.1, z.2])[2 * i + 1]? = some zs[i].2 := by
  induction zs generalizing i with
  | nil => simp at hi
  | cons z zs ih =>
    cases i with
    | zero => simp
    | succ i =>
      have := ih i (by simpa using hi)
      simpa [Nat.mul_add] using this

/-- Bytes a write of complex elements leaves alone. -/
theorem byteAt_writeComplexes_of_not (b : Buffer) (hb : b.elemSize = 8) (start a : Nat) (zs : List (Word × Word))
    (s : State) (h : ¬ b.Covers start zs.length a) : (writeComplexes b start zs s).byteAt a = s.byteAt a := by
  apply byte_writeWords_of_not
  rw [pairs_length]
  simp only [Buffer.Covers, addr_complex hb] at h
  omega

/-- The written complex elements read back. -/
theorem complexAt_writeComplexes (b : Buffer) (hb : b.elemSize = 8) (start : Nat) (zs : List (Word × Word))
    (s : State) : (writeComplexes b start zs s).ReadsComplexAs b start zs := by
  intro i hi
  have hp := pairs_getElem? zs i hi
  have h0 : 2 * i < (zs.flatMap fun z => [z.1, z.2]).length := by rw [pairs_length]; omega
  have h1 : 2 * i + 1 < (zs.flatMap fun z => [z.1, z.2]).length := by rw [pairs_length]; omega
  have w0 := word_writeWords s.mem (b.addr start) _ _ h0
  have w1 := word_writeWords s.mem (b.addr start) _ _ h1
  rw [List.getElem?_eq_getElem h0, List.getElem?_eq_getElem h1] at hp
  simp only [Option.some.injEq] at hp
  rw [hp.1] at w0
  rw [hp.2] at w1
  simp only [State.complexAt, writeComplexes_mem, addr_complex hb]
  rw [show b.addr start + 8 * i = b.addr start + 4 * (2 * i) by omega, w0,
    show b.addr start + 4 * (2 * i) + 4 = b.addr start + 4 * (2 * i + 1) by omega, w1]
  simp [hi]

/-- A real element depends on its four bytes only. -/
theorem realAt_congr {s t : State} {b : Buffer} {e : Nat}
    (h : ∀ j, j < 4 → s.byteAt (b.addr e + j) = t.byteAt (b.addr e + j)) : s.realAt b e = t.realAt b e :=
  word_congr h

/-- A complex element depends on its eight bytes only. -/
theorem complexAt_congr {s t : State} {b : Buffer} {e : Nat}
    (h : ∀ j, j < 8 → s.byteAt (b.addr e + j) = t.byteAt (b.addr e + j)) : s.complexAt b e = t.complexAt b e := by
  have h0 : s.mem.word (b.addr e) = t.mem.word (b.addr e) := word_congr fun j hj => h j (by omega)
  have h1 : s.mem.word (b.addr e + 4) = t.mem.word (b.addr e + 4) :=
    word_congr fun j hj => by simpa [Nat.add_assoc, byteAt_eq] using h (4 + j) (by omega)
  simp only [State.complexAt, h0, h1]

/-! ### Execution -/

/-- Everything a command can do when it answers next: fail with the first failing check, or run its body and succeed. -/
theorem execute_next_iff (cmd : Instr) (body : State → Except Fault State) (s t : State) :
    execute cmd body s = .next t ↔
      (∃ e, commandError cmd s = some e ∧ t = fail (encode cmd) e s) ∨
      (commandError cmd s = none ∧ ∃ u, body s = .ok u ∧ t = succeed u) := by
  unfold execute
  cases h : commandError cmd s with
  | some e => simp [eq_comm]
  | none => cases hb : body s <;> simp [eq_comm]

/-- A command faults exactly when its checks pass and its body does. -/
theorem execute_fault_iff (cmd : Instr) (body : State → Except Fault State) (s : State) (r : Fault) :
    execute cmd body s = .fault r ↔ commandError cmd s = none ∧ body s = .error r := by
  unfold execute
  cases h : commandError cmd s with
  | some e => simp
  | none => cases hb : body s <;> simp

/-- No command is refused. -/
theorem execute_not_refused (cmd : Instr) (body : State → Except Fault State) (s : State) (r : Refusal) :
    execute cmd body s ≠ .refused r := by
  unfold execute
  cases commandError cmd s with
  | some e => simp
  | none => cases body s <;> simp

/-- A command whose checks pass and whose body runs completes. -/
theorem execute_of_ok {cmd : Instr} {body : State → Except Fault State} {s u : State}
    (he : commandError cmd s = none) (hb : body s = .ok u) : execute cmd body s = .next (succeed u) := by
  simp [execute, he, hb]

/-- A command whose check fails fails. -/
theorem execute_of_error {cmd : Instr} {body : State → Except Fault State} {s : State} {e : CmdError}
    (he : commandError cmd s = some e) : execute cmd body s = .next (fail (encode cmd) e s) := by
  simp [execute, he]

/-! ### Builds and the checks of WS_INIT -/

/-- The default build has the default window of every length. -/
@[simp] theorem windowOf_default (W i : Nat) : windowOf Config.Build.default W i = windowImpl W i := rfl

/-- The default build supports the powers of two. -/
@[simp] theorem fftSupports_default (W : Nat) : fftSupports Config.Build.default W = isPowerOfTwo W := rfl

/-- The window of a build is one of its tables or the default. -/
theorem windowOf_cases (b : Config.Build) (W : Nat) :
    (∃ t ∈ b.windows, t.1 = W ∧ ∀ i, windowOf b W i = t.2.getD i 0x00000000#32) ∨ windowOf b W = windowImpl W := by
  unfold windowOf
  cases h : b.windows.find? fun t => decide (t.1 = W) with
  | none => exact .inr (funext fun i => by simp)
  | some t =>
    exact .inl ⟨t, List.mem_of_find?_eq_some h, by simpa using List.find?_some h, fun i => by simp⟩

/-- The windows of a legal build's tables are finite. -/
theorem windowOf_table_finite {b : Config.Build} (hb : BuildLegal b) {t : Nat × List Word} (ht : t ∈ b.windows) (i : Nat) :
    magBits (t.2.getD i 0x00000000#32) < infMag := by
  rw [List.getD_eq_getElem?_getD]
  cases h : t.2[i]? with
  | none => decide
  | some w => exact (hb.2.2.2.2 t ht).2 w (List.mem_of_getElem? h)

/-- The checks of WS_INIT pass exactly on the legal CFG values (R222). -/
theorem cfgError_none_iff (b : Config.Build) (c : CfgRegs) :
    cfgError b c = none ↔
      (c.winLen.toNat % 2 = 0 ∧ 2 ≤ c.winLen.toNat ∧ c.winLen.toNat ≤ b.wMax ∧ fftSupports b c.winLen.toNat = true) ∧
      (1 ≤ c.hop.toNat ∧ c.hop.toNat ≤ c.winLen.toNat) ∧
      (c.winLen.toNat / 2 + 1 ≤ c.sigLen.toNat ∧ c.sigLen.toNat ≤ b.nMax) ∧ epsOk c.eps = true ∧
      c.sigLen.toNat / c.hop.toNat + 1 ≤ b.nbMax := by
  simp only [cfgError]
  by_cases h1 : c.winLen.toNat % 2 = 0 ∧ 2 ≤ c.winLen.toNat ∧ c.winLen.toNat ≤ b.wMax ∧
      fftSupports b c.winLen.toNat = true
  · by_cases h2 : 1 ≤ c.hop.toNat ∧ c.hop.toNat ≤ c.winLen.toNat
    · by_cases h3 : c.winLen.toNat / 2 + 1 ≤ c.sigLen.toNat ∧ c.sigLen.toNat ≤ b.nMax
      · by_cases h4 : epsOk c.eps = true
        · by_cases h5 : b.nbMax < c.sigLen.toNat / c.hop.toNat + 1
          · rw [if_neg (not_not.2 h1), if_neg (not_not.2 h2), if_neg (not_not.2 h3), if_neg (not_not.2 h4), if_pos h5]
            exact ⟨fun h => by simp at h, fun h => absurd h.2.2.2.2 (by omega)⟩
          · rw [if_neg (not_not.2 h1), if_neg (not_not.2 h2), if_neg (not_not.2 h3), if_neg (not_not.2 h4), if_neg h5]
            exact ⟨fun _ => ⟨h1, h2, h3, h4, by omega⟩, fun _ => rfl⟩
        · rw [if_neg (not_not.2 h1), if_neg (not_not.2 h2), if_neg (not_not.2 h3), if_pos h4]
          exact ⟨fun h => by simp at h, fun h => absurd h.2.2.2.1 h4⟩
      · rw [if_neg (not_not.2 h1), if_neg (not_not.2 h2), if_pos h3]
        exact ⟨fun h => by simp at h, fun h => absurd h.2.2.1 h3⟩
    · rw [if_neg (not_not.2 h1), if_pos h2]
      exact ⟨fun h => by simp at h, fun h => absurd h.2.1 h2⟩
  · rw [if_pos h1]
    exact ⟨fun h => by simp at h, fun h => absurd h.1 h1⟩

end Sys2Proof.Machine
end

