-- ==== Sys2Proof/Laws/Bodies.lean ====
section
/-! SUPPORT. One inversion lemma per command body, per turn and for the step: what it can do when it answers. -/

namespace Sys2Proof.Machine

theorem pure_ok_iff {ε α : Type} (a b : α) : (pure a : Except ε α) = .ok b ↔ b = a := by
  simp [pure, Except.pure, eq_comm]

theorem loadRowBody_ok_iff (cmd : Instr) (c : Nat) (s t : State) :
    loadRowBody cmd c s = .ok t ↔
      ∃ x, x.length = s.gN ∧ s.ReadsAs .wave (s.waveIndex c 0) x ∧ t = writeReals .padded s.gP x s := by
  simp only [loadRowBody, bind_ok_iff, readReals_indices_iff, pure_ok_iff, and_assoc]

theorem reflectPadBody_ok_iff (cmd : Instr) (s t : State) :
    reflectPadBody cmd s = .ok t ↔
      ∃ x y, x.length = s.gP ∧ s.ReadsAs .padded (s.gP + 1) x ∧
        y.length = s.gP ∧ s.ReadsAs .padded (s.gN - 1) y ∧ t = writePads x y s := by
  simp only [reflectPadBody, bind_ok_iff, readReals_indices_iff, pure_ok_iff, and_assoc, exists_and_left]

theorem frameFwdBody_ok_iff (cmd : Instr) (f : Nat) (s t : State) :
    frameFwdBody cmd f s = .ok t ↔
      ∃ x w, x.length = s.gW ∧ s.ReadsAs .padded (s.frameStart f) x ∧
        w.length = s.gW ∧ s.ReadsAs .window 0 w ∧ t = writeForwardFrame f x w s := by
  simp only [frameFwdBody, bind_ok_iff, readReals_indices_iff, pure_ok_iff, and_assoc, exists_and_left]

theorem specStoreBody_ok_iff (cmd : Instr) (c : Nat) (s t : State) :
    specStoreBody cmd c s = .ok t ↔
      ∃ z, s.binMajor.map (s.complexAt .cframes) = z.map some ∧
        t = writeComplexes .spec (s.specIndex c 0 0) z s := by
  simp only [specStoreBody, bind_ok_iff, readComplexes_ok_iff, pure_ok_iff]

theorem specLoadBody_ok_iff (cmd : Instr) (c : Nat) (s t : State) :
    specLoadBody cmd c s = .ok t ↔
      ∃ z, (s.frameMajor c).map (s.complexAt .spec) = z.map some ∧ t = writeComplexes .cframes 0 z s := by
  simp only [specLoadBody, bind_ok_iff, readComplexes_ok_iff, pure_ok_iff]

theorem frameInvBody_ok_iff (cmd : Instr) (f : Nat) (s t : State) :
    frameInvBody cmd f s = .ok t ↔
      ∃ z a w n, z.length = s.gNBINS ∧ s.ReadsComplexAs .cframes (s.cframeIndex f 0) z ∧
        a.length = s.gW ∧ s.ReadsAs .outacc (s.frameStart f) a ∧
        w.length = s.gW ∧ s.ReadsAs .window 0 w ∧
        n.length = s.gW ∧ s.ReadsAs .norm (s.frameStart f) n ∧ t = writeInverseFrame f z a w n s := by
  simp only [frameInvBody, bind_ok_iff, readReals_indices_iff, readComplexes_indices_iff, pure_ok_iff, and_assoc,
    exists_and_left]

theorem rowStoreBody_ok_iff (cmd : Instr) (c : Nat) (s t : State) :
    rowStoreBody cmd c s = .ok t ↔
      ∃ x, x.length = s.gN ∧ s.ReadsAs .outacc s.gP x ∧ t = writeReals .wave (s.waveIndex c 0) x s := by
  simp only [rowStoreBody, bind_ok_iff, readReals_indices_iff, pure_ok_iff, and_assoc]

theorem stftBody_ok_iff (cmd : Instr) (c : Nat) (s t : State) :
    stftBody cmd c s = .ok t ↔
      ∃ s1, loadRowBody cmd c s = .ok s1 ∧ ∃ s2, reflectPadBody cmd s1 = .ok s2 ∧
        ∃ s3, forFrames (frameFwdBody cmd) 0 s.gNB s2 = .ok s3 ∧ specStoreBody cmd c s3 = .ok t := by
  simp only [stftBody, bind_ok_iff]

theorem istftBody_ok_iff (cmd : Instr) (c : Nat) (s t : State) :
    istftBody cmd c s = .ok t ↔
      ∃ s1, specLoadBody cmd c s = .ok s1 ∧
        ∃ s2, forFrames (frameInvBody cmd) 0 s.gNB (accClearBody s1) = .ok s2 ∧
          rowStoreBody cmd c s2 = .ok t := by
  simp only [istftBody, bind_ok_iff]

theorem stftAllBody_ok_iff (cmd : Instr) (s t : State) :
    stftAllBody cmd s = .ok t ↔ ∃ u, stftBody cmd 0 s = .ok u ∧ stftBody cmd 1 u = .ok t := by
  simp only [stftAllBody, bind_ok_iff]

theorem istftAllBody_ok_iff (cmd : Instr) (s t : State) :
    istftAllBody cmd s = .ok t ↔ ∃ u, istftBody cmd 0 s = .ok u ∧ istftBody cmd 1 u = .ok t := by
  simp only [istftAllBody, bind_ok_iff]

/-- A loop of frames keeps what every frame of it keeps. -/
theorem forFrames_induct {body : Nat → State → Except Fault State} (P : State → Prop)
    (hstep : ∀ f s t, P s → body f s = .ok t → P t) :
    ∀ n start s t, P s → forFrames body start n s = .ok t → P t := by
  intro n
  induction n with
  | zero => intro start s t hs h; simp only [forFrames, Except.ok.injEq] at h; exact h ▸ hs
  | succ n ih =>
    intro start s t hs h
    simp only [forFrames] at h
    split at h
    · cases h
    · rename_i u hu; exact ih _ _ _ (hstep _ _ _ hs hu) h

/-- A body that only writes buffer elements: every field but the storage is as before, and the storage keeps its
canonical form. -/
def WritesOnly (s t : State) : Prop := t = { s with mem := t.mem } ∧ (s.MemCanonical → t.MemCanonical)

theorem WritesOnly.refl (s : State) : WritesOnly s s := ⟨rfl, id⟩

theorem WritesOnly.trans {s t u : State} (h : WritesOnly s t) (k : WritesOnly t u) : WritesOnly s u :=
  ⟨by rw [k.1, h.1], fun x => k.2 (h.2 x)⟩

theorem writesOnly_writeReals (b : Buffer) (n : Nat) (vs : List Word) (s : State) :
    WritesOnly s (writeReals b n vs s) := ⟨rfl, fun h => wf_writeWords _ _ h⟩

theorem writesOnly_writeComplexes (b : Buffer) (n : Nat) (zs : List (Word × Word)) (s : State) :
    WritesOnly s (writeComplexes b n zs s) := ⟨rfl, fun h => wf_writeWords _ _ h⟩

theorem writesOnly_writePads (x y : List Word) (s : State) : WritesOnly s (writePads x y s) :=
  (((writesOnly_writeReals _ _ _ _).trans (writesOnly_writeReals _ _ _ _)).trans
    (writesOnly_writeReals _ _ _ _)).trans (writesOnly_writeReals _ _ _ _)

theorem writesOnly_writeForwardFrame (f : Nat) (x w : List Word) (s : State) :
    WritesOnly s (writeForwardFrame f x w s) :=
  (writesOnly_writeReals _ _ _ _).trans (writesOnly_writeComplexes _ _ _ _)

theorem writesOnly_writeInverseFrame (f : Nat) (z : List (Word × Word)) (a w n : List Word) (s : State) :
    WritesOnly s (writeInverseFrame f z a w n s) :=
  ((writesOnly_writeComplexes _ _ _ _).trans (writesOnly_writeReals _ _ _ _)).trans
    (writesOnly_writeReals _ _ _ _)

theorem loadRowBody_writesOnly {cmd : Instr} {c : Nat} {s t : State} (h : loadRowBody cmd c s = .ok t) :
    WritesOnly s t := by
  obtain ⟨x, -, -, rfl⟩ := (loadRowBody_ok_iff _ _ _ _).1 h
  exact writesOnly_writeReals _ _ _ _

theorem reflectPadBody_writesOnly {cmd : Instr} {s t : State} (h : reflectPadBody cmd s = .ok t) :
    WritesOnly s t := by
  obtain ⟨x, y, -, -, -, -, rfl⟩ := (reflectPadBody_ok_iff _ _ _).1 h
  exact writesOnly_writePads _ _ _

theorem frameFwdBody_writesOnly {cmd : Instr} {f : Nat} {s t : State} (h : frameFwdBody cmd f s = .ok t) :
    WritesOnly s t := by
  obtain ⟨x, w, -, -, -, -, rfl⟩ := (frameFwdBody_ok_iff _ _ _ _).1 h
  exact writesOnly_writeForwardFrame _ _ _ _

theorem specStoreBody_writesOnly {cmd : Instr} {c : Nat} {s t : State} (h : specStoreBody cmd c s = .ok t) :
    WritesOnly s t := by
  obtain ⟨z, -, rfl⟩ := (specStoreBody_ok_iff _ _ _ _).1 h
  exact writesOnly_writeComplexes _ _ _ _

theorem specLoadBody_writesOnly {cmd : Instr} {c : Nat} {s t : State} (h : specLoadBody cmd c s = .ok t) :
    WritesOnly s t := by
  obtain ⟨z, -, rfl⟩ := (specLoadBody_ok_iff _ _ _ _).1 h
  exact writesOnly_writeComplexes _ _ _ _

theorem accClearBody_writesOnly (s : State) : WritesOnly s (accClearBody s) := writesOnly_writeReals _ _ _ _

theorem frameInvBody_writesOnly {cmd : Instr} {f : Nat} {s t : State} (h : frameInvBody cmd f s = .ok t) :
    WritesOnly s t := by
  obtain ⟨z, a, w, n, -, -, -, -, -, -, -, -, rfl⟩ := (frameInvBody_ok_iff _ _ _ _).1 h
  exact writesOnly_writeInverseFrame _ _ _ _ _ _

theorem rowStoreBody_writesOnly {cmd : Instr} {c : Nat} {s t : State} (h : rowStoreBody cmd c s = .ok t) :
    WritesOnly s t := by
  obtain ⟨x, -, -, rfl⟩ := (rowStoreBody_ok_iff _ _ _ _).1 h
  exact writesOnly_writeReals _ _ _ _

theorem forFrames_writesOnly {body : Nat → State → Except Fault State}
    (hb : ∀ f s t, body f s = .ok t → WritesOnly s t) {n start : Nat} {s t : State}
    (h : forFrames body start n s = .ok t) : WritesOnly s t :=
  forFrames_induct (WritesOnly s) (fun f _ _ hs hu => hs.trans (hb f _ _ hu)) n start s t (WritesOnly.refl s) h

theorem stftBody_writesOnly {cmd : Instr} {c : Nat} {s t : State} (h : stftBody cmd c s = .ok t) :
    WritesOnly s t := by
  obtain ⟨s1, h1, s2, h2, s3, h3, h4⟩ := (stftBody_ok_iff _ _ _ _).1 h
  exact (((loadRowBody_writesOnly h1).trans (reflectPadBody_writesOnly h2)).trans
    (forFrames_writesOnly (fun _ _ _ => frameFwdBody_writesOnly) h3)).trans (specStoreBody_writesOnly h4)

theorem istftBody_writesOnly {cmd : Instr} {c : Nat} {s t : State} (h : istftBody cmd c s = .ok t) :
    WritesOnly s t := by
  obtain ⟨s1, h1, s2, h2, h3⟩ := (istftBody_ok_iff _ _ _ _).1 h
  exact (((specLoadBody_writesOnly h1).trans (accClearBody_writesOnly s1)).trans
    (forFrames_writesOnly (fun _ _ _ => frameInvBody_writesOnly) h2)).trans (rowStoreBody_writesOnly h3)

/-- What one Host transaction can do (R130, R134). -/
theorem transact_cases (r : BusReq) (s : State) :
    (busError r s = true ∧ transact r s = respondError s) ∨
    (busError r s = false ∧
      ((∃ a n, r = .read a n ∧ transact r s = acceptRead a.toNat s) ∨
        (∃ a n v, r = .write a n v ∧ transact r s = acceptWrite a.toNat v s))) := by
  unfold transact
  cases h : busError r s with
  | true => simp
  | false => cases r <;> simp

/-- What one step can do when it answers next: an idle Engine, a command word executed, a Host transaction, a reset. -/
theorem step_next_cases {s t : State} (h : step s = .next t) :
    (∃ u, (u = s ∧ s.turns = [] ∨ ∃ ts, s.turns = .engine :: ts ∧ u = { s with turns := ts }) ∧
      ((s.pending = none ∧ t = u) ∨ (∃ p, s.pending = some p ∧ executeWord p.word u = .next t))) ∨
    (∃ r ts, s.turns = .host r :: ts ∧ t = transact r { s with turns := ts }) ∨
    (∃ ts, s.turns = .hardReset :: ts ∧ t = resetHardware { s with turns := ts }) := by
  unfold step at h
  split at h
  · rename_i hs
    refine .inl ⟨s, .inl ⟨rfl, hs⟩, ?_⟩
    unfold engineStep at h
    split at h
    · rename_i hp; simp only [Host.Outcome.next.injEq] at h; exact .inl ⟨hp, h.symm⟩
    · rename_i p hp; exact .inr ⟨p, hp, h⟩
  · rename_i u ts hs
    cases u with
    | host r => simp only [takeTurn, Host.Outcome.next.injEq] at h; exact .inr (.inl ⟨r, ts, hs, h.symm⟩)
    | hardReset => simp only [takeTurn, Host.Outcome.next.injEq] at h; exact .inr (.inr ⟨ts, hs, h.symm⟩)
    | engine =>
      refine .inl ⟨{ s with turns := ts }, .inr ⟨ts, hs, rfl⟩, ?_⟩
      simp only [takeTurn, engineStep] at h
      split at h
      · rename_i hp
        have hp : s.pending = none := hp
        simp only [Host.Outcome.next.injEq] at h; exact .inl ⟨hp, h.symm⟩
      · rename_i p hp
        have hp : s.pending = some p := hp
        exact .inr ⟨p, hp, h⟩

/-- A word that executes to a next state: an illegal word fails, a command answers its meaning (R402). -/
theorem executeWord_next_cases {v : Word} {s t : State} (h : executeWord v s = .next t) :
    ((∃ e, decode v = .error e) ∧ t = fail v .illegalCmd s) ∨ (∃ i, decode v = .ok i ∧ exec i s = .next t) := by
  unfold executeWord at h
  split at h
  · rename_i e he; simp only [Host.Outcome.next.injEq] at h; exact .inl ⟨⟨e, he⟩, h.symm⟩
  · rename_i i hi; exact .inr ⟨i, hi, h⟩

end Sys2Proof.Machine
end

