-- ==== Sys2Proof/Laws/Exec.lean ====
section
/-! SUPPORT. Every meaning is `execute` of its body, and what a meaning can do when it answers next. -/

namespace Sys2Proof.Machine

/-- The body each command runs once its checks pass. -/
def bodyOf : Instr → State → Except Fault State
  | .nop => fun s => .ok s
  | .wsInit => fun s => .ok (wsInitBody s)
  | .winGen => fun s => .ok (winGenBody s)
  | .loadRow c => loadRowBody (.loadRow c) c
  | .reflectPad => reflectPadBody .reflectPad
  | .frameFwd f => frameFwdBody (.frameFwd f) f
  | .specStore c => specStoreBody (.specStore c) c
  | .stft c => stftBody (.stft c) c
  | .stftAll => stftAllBody .stftAll
  | .specLoad c => specLoadBody (.specLoad c) c
  | .accClear => fun s => .ok (accClearBody s)
  | .frameInv f => frameInvBody (.frameInv f) f
  | .rowStore c => rowStoreBody (.rowStore c) c
  | .istft c => istftBody (.istft c) c
  | .istftAll => istftAllBody .istftAll

/-- A meaning is its checks, its body and its completion (R402). -/
theorem exec_eq_execute (i : Instr) (s : State) : exec i s = execute i (bodyOf i) s := by
  cases i <;> rfl

/-- A meaning that answers next failed with the first failing check, or its body ran and it succeeded. -/
theorem exec_next_iff (i : Instr) (s t : State) :
    exec i s = .next t ↔
      (∃ e, commandError i s = some e ∧ t = fail (encode i) e s) ∨
      (commandError i s = none ∧ ∃ u, bodyOf i s = .ok u ∧ t = succeed u) := by
  rw [exec_eq_execute, execute_next_iff]

/-- A body other than those of WS_INIT and WIN_GEN only writes buffer elements. -/
theorem bodyOf_writesOnly {i : Instr} {s u : State} (h1 : i ≠ .wsInit) (h2 : i ≠ .winGen)
    (h : bodyOf i s = .ok u) : WritesOnly s u := by
  cases i with
  | nop => simp only [bodyOf, Except.ok.injEq] at h; exact h ▸ WritesOnly.refl s
  | wsInit => exact absurd rfl h1
  | winGen => exact absurd rfl h2
  | loadRow c => exact loadRowBody_writesOnly h
  | reflectPad => exact reflectPadBody_writesOnly h
  | frameFwd f => exact frameFwdBody_writesOnly h
  | specStore c => exact specStoreBody_writesOnly h
  | stft c => exact stftBody_writesOnly h
  | stftAll =>
    obtain ⟨v, h1, h2⟩ := (stftAllBody_ok_iff _ _ _).1 h
    exact (stftBody_writesOnly h1).trans (stftBody_writesOnly h2)
  | specLoad c => exact specLoadBody_writesOnly h
  | accClear => simp only [bodyOf, Except.ok.injEq] at h; exact h ▸ accClearBody_writesOnly s
  | frameInv f => exact frameInvBody_writesOnly h
  | rowStore c => exact rowStoreBody_writesOnly h
  | istft c => exact istftBody_writesOnly h
  | istftAll =>
    obtain ⟨v, h1, h2⟩ := (istftAllBody_ok_iff _ _ _).1 h
    exact (istftBody_writesOnly h1).trans (istftBody_writesOnly h2)

/-- What the checks of a command that runs have established (R402). -/
theorem commandError_none {i : Instr} {s : State} (h : commandError i s = none) :
    (needsWs i = true → s.wsValid = true) ∧ (needsWin i = true → s.winValid = true) ∧
      frameTooLarge i s = false ∧ ownError i s = none := by
  unfold commandError at h
  split at h
  · cases h
  · rename_i h1
    split at h
    · cases h
    · rename_i h2
      split at h
      · cases h
      · rename_i h3
        refine ⟨?_, ?_, by simpa using h3, h⟩
        · intro hn; simpa [hn] using h1
        · intro hn; simpa [hn] using h2

/-- The checks of a command whose flags are set and whose frame is in range pass, WS_INIT apart. -/
theorem commandError_of_ready {i : Instr} {s : State} (hi : i ≠ .wsInit) (h1 : s.wsValid = true)
    (h2 : needsWin i = true → s.winValid = true) (h3 : frameTooLarge i s = false) : commandError i s = none := by
  unfold commandError
  cases hw : needsWin i with
  | false => simp [h1, h3, ownError, hi]
  | true => simp [h1, h2 hw, h3, ownError, hi]

end Sys2Proof.Machine
end

