-- ==== Sys2Proof/Laws/Layout.lean ====
section
/-! SUPPORT. With a legal geometry every buffer lies inside its window, so different buffers never overlap
(20_memory.md R121, R123; 00_scope.md R6). -/

namespace Sys2Proof.Machine

theorem region_injective {b b' : Buffer} (h : b.region = b'.region) : b = b' := by
  cases b <;> cases b' <;> first | rfl | simp [Buffer.region] at h

/-- A legal geometry keeps every buffer inside its 2^28-byte window. -/
theorem len_fits {s : State} (hg : s.GeometryLegal) (hv : s.wsValid = true) (b : Buffer) :
    b.elemSize * b.len s ≤ 2 ^ 28 := by
  obtain ⟨hb1, hb2, hb3, hb4, -⟩ := hg.1
  obtain ⟨⟨h1, h2, h3, -⟩, ⟨h4, h5⟩, ⟨h6, h7⟩, -, hP, hL, hNB, hBINS, hcap, -⟩ := hg.2 hv
  have hb : s.gNBINS ≤ s.build.wMax / 2 + 1 := by omega
  have hm : s.gNB * s.gNBINS ≤ s.build.nbMax * (s.build.wMax / 2 + 1) := Nat.mul_le_mul hcap hb
  have hm' : s.gNBINS * s.gNB = s.gNB * s.gNBINS := Nat.mul_comm _ _
  rw [Nat.mul_assoc] at hb2
  cases b <;> simp only [Buffer.len, Buffer.elemSize, Nat.mul_assoc] <;> omega

/-- The address of an element of a window lies in the window's region. -/
theorem addr_div {b : Buffer} {e j : Nat} (h : b.elemSize * e + j < 2 ^ 28) :
    (b.addr e + j) / 2 ^ 28 = b.region := by
  simp only [Buffer.addr, Buffer.base]
  omega

theorem covers_bounds {b : Buffer} {start n a : Nat} (h : b.Covers start n a)
    (hf : b.elemSize * (start + n) ≤ 2 ^ 28) : a / 2 ^ 28 = b.region := by
  obtain ⟨h1, h2⟩ := h
  simp only [Buffer.addr, Buffer.base] at h1 h2
  omega

/-- Ranges of different buffers inside their windows have no address in common. -/
theorem covers_disjoint {b b' : Buffer} (hb : b ≠ b') {start n start' n' a : Nat} (h : b.Covers start n a)
    (h' : b'.Covers start' n' a) (hf : b.elemSize * (start + n) ≤ 2 ^ 28)
    (hf' : b'.elemSize * (start' + n') ≤ 2 ^ 28) : False :=
  hb (region_injective ((covers_bounds h hf).symm.trans (covers_bounds h' hf')))

end Sys2Proof.Machine
end

