-- ==== Sys2Proof/Laws/PerInstr.lean ====
section
/-! SUPPORT. The family of statements proved once per command: the encoder puts the command's opcode in the OP byte
(30_encoding.md R170), for every operand. -/

namespace Sys2Proof.Laws.OpByte

/-- The OP field of a command's word is its opcode. -/
def Statement (i : Instr) : Prop := fieldOp (encode i) = opcode i

theorem of_small (i : Instr) (h : opcode i < 256) : Statement i := by
  unfold Statement fieldOp encode
  rw [BitVec.toNat_ofNat]
  omega

theorem nop : Statement .nop := of_small _ (by decide)
theorem wsInit : Statement .wsInit := of_small _ (by decide)
theorem winGen : Statement .winGen := of_small _ (by decide)
theorem loadRow (c : Nat) : Statement (.loadRow c) := of_small _ (by simp [opcode])
theorem reflectPad : Statement .reflectPad := of_small _ (by decide)
theorem frameFwd (f : Nat) : Statement (.frameFwd f) := of_small _ (by simp [opcode])
theorem specStore (c : Nat) : Statement (.specStore c) := of_small _ (by simp [opcode])
theorem stft (c : Nat) : Statement (.stft c) := of_small _ (by simp [opcode])
theorem stftAll : Statement .stftAll := of_small _ (by decide)
theorem specLoad (c : Nat) : Statement (.specLoad c) := of_small _ (by simp [opcode])
theorem accClear : Statement .accClear := of_small _ (by decide)
theorem frameInv (f : Nat) : Statement (.frameInv f) := of_small _ (by simp [opcode])
theorem rowStore (c : Nat) : Statement (.rowStore c) := of_small _ (by simp [opcode])
theorem istft (c : Nat) : Statement (.istft c) := of_small _ (by simp [opcode])
theorem istftAll : Statement .istftAll := of_small _ (by decide)

end Sys2Proof.Laws.OpByte
end

