-- ==== Sys2Proof/Tests/Slice0.lean ====
section
/-! SUPPORT. The model's own tests. Every expected value is taken from spec/, the vector T<n> of 95_test_vectors.md or the
rule named beside it. The second half holds a witness for the hypotheses of each statement. -/

set_option maxRecDepth 100000
set_option Elab.async false

namespace Sys2Proof.Tests

open Sys2Proof.Machine

/-! ### Well-formedness and encoding -/

/-- R172: the channel operand is 0 or 1; R177: an operand out of range is refused. -/
theorem test_wellFormed_channel :
    [Instr.loadRow 2, .specStore 2, .stft 2, .specLoad 2, .rowStore 2, .istft 2].all (fun i => !i.wellFormed) = true ∧
    [Instr.loadRow 1, .specStore 1, .stft 1, .specLoad 1, .rowStore 1, .istft 1].all Instr.wellFormed = true := by
  decide

/-- R172: the frame operand is below 2^23. -/
theorem test_wellFormed_frame :
    [Instr.frameFwd 8388608, .frameInv 8388608].all (fun i => !i.wellFormed) = true ∧
    [Instr.frameFwd 8388607, .frameInv 8388607].all Instr.wellFormed = true := by decide

/-- T1, and the words of R180: every command's word, written out from {ARG[31:9], CH[8], OP[7:0]}. -/
theorem test_decode_setup :
    decode 0x00000000#32 = .ok .nop ∧ decode 0x00000001#32 = .ok .wsInit ∧ decode 0x00000002#32 = .ok .winGen := by
  decide
theorem test_decode_forward :
    decode 0x00000110#32 = .ok (.loadRow 1) ∧ decode 0x00000010#32 = .ok (.loadRow 0) ∧
    decode 0x00000011#32 = .ok .reflectPad ∧ decode 0x00000612#32 = .ok (.frameFwd 3) ∧
    decode 0xFFFFFE12#32 = .ok (.frameFwd 0x7FFFFF) ∧ decode 0x00000113#32 = .ok (.specStore 1) := by decide
theorem test_decode_inverse :
    decode 0x00000020#32 = .ok (.specLoad 0) ∧ decode 0x00000120#32 = .ok (.specLoad 1) ∧
    decode 0x00000021#32 = .ok .accClear ∧ decode 0x00000422#32 = .ok (.frameInv 2) ∧
    decode 0x00000123#32 = .ok (.rowStore 1) := by decide
theorem test_decode_driver :
    decode 0x00000018#32 = .ok (.stft 0) ∧ decode 0x00000118#32 = .ok (.stft 1) ∧
    decode 0x00000019#32 = .ok .stftAll ∧ decode 0x00000128#32 = .ok (.istft 1) ∧
    decode 0x00000029#32 = .ok .istftAll := by decide
/-- T1: the words that decode to none. -/
theorem test_decode_illegal :
    decode 0x00000003#32 = .error (.unassignedOp 0x03) ∧ decode 0x000000FF#32 = .error (.unassignedOp 0xFF) ∧
    decode 0x00000100#32 = .error (.mustBeZero 0x00) ∧ decode 0x00000210#32 = .error (.mustBeZero 0x10) ∧
    decode 0x00000112#32 = .error (.mustBeZero 0x12) ∧ decode 0x80000019#32 = .error (.mustBeZero 0x19) ∧
    decode 0x00000219#32 = .error (.mustBeZero 0x19) := by decide
/-- T1: the encoder writes the same words. -/
theorem test_encode :
    encode (.loadRow 1) = 0x00000110#32 ∧ encode (.frameFwd 0x7FFFFF) = 0xFFFFFE12#32 ∧
    encode (.frameInv 2) = 0x00000422#32 ∧ encode .istftAll = 0x00000029#32 ∧ encode (.istft 1) = 0x00000128#32 := by
  decide
/-- T1: 241 OP bytes are not assigned (R175). -/
theorem test_unassigned_count :
    ((List.range 256).filter fun op => decodeTableWord 32 op == none).length = 241 := by decide +kernel
/-- R177. -/
theorem test_assemble :
    assemble "LOAD_ROW".toList ["1".toList] = some 0x00000110#32 ∧
    assemble "FRAME_FWD".toList ["0x3".toList] = some 0x00000612#32 ∧
    assemble "FRAME_FWD".toList ["8388608".toList] = none ∧ assemble "STFT".toList ["2".toList] = none ∧
    assemble "NOP".toList ["0".toList] = none ∧ assemble ".word".toList ["0x0000000F".toList] = some 0x0000000F#32 := by
  decide

/-- R177: the examples of the rule, as lines. -/
theorem test_assemble_line :
    assembleLine "NOP" = some 0x00000000#32 ∧ assembleLine "STFT 1" = some 0x00000118#32 ∧
    assembleLine "FRAME_FWD 3" = some 0x00000612#32 ∧ assembleLine "FRAME_INV 0x7FFFFF" = some 0xFFFFFE22#32 ∧
    assembleLine "STFT 1 0" = none ∧ assembleLine "STFT" = none := by decide

/-! ### Small states -/

/-- The CFG registers written, nothing else. -/
def configured (W H N : Nat) (eps : Word) : State :=
  { State.reset with
    cfgWinLen := BitVec.ofNat 32 W, cfgHop := BitVec.ofNat 32 H, cfgSigLen := BitVec.ofNat 32 N, cfgEps := eps }

/-- The state a step answers; the given state where it answers none. -/
def nextOr (o : Host.Outcome State Fault Refusal) (s : State) : State :=
  match o with
  | .next t => t
  | .fault _ => s
  | .refused _ => s

/-- Whether an outcome is a next state. -/
def isNext (o : Host.Outcome State Fault Refusal) : Bool :=
  match o with
  | .next _ => true
  | .fault _ => false
  | .refused _ => false

theorem exists_of_isNext {o : Host.Outcome State Fault Refusal} (h : isNext o = true) : ∃ t, o = .next t := by
  cases o with
  | next t => exact ⟨t, rfl⟩
  | fault r => cases h
  | refused r => cases h

/-- The fault of an outcome. -/
def faultOf (o : Host.Outcome State Fault Refusal) : Option Fault :=
  match o with
  | .next _ => none
  | .fault r => some r
  | .refused _ => none

/-- One step with a command word accepted. -/
def stepWith (s : State) (w : Nat) : Host.Outcome State Fault Refusal := step (s.withFetchWord 32 w)

/-- The state after it. -/
def after (s : State) (w : Nat) : State := nextOr (stepWith s w) s

/-- CSRs after a command word: each offset with the value it reads; the step must answer next. -/
def readsAfter (s : State) (w : Nat) (expected : List (Nat × Word)) : Bool :=
  isNext (stepWith s w) && expected.all fun p => csrRead p.1 (after s w) == p.2

/-- The elements [0, n) of a real buffer. -/
def realsOf (s : State) (b : Buffer) (n : Nat) : List (Option Word) := (List.range n).map (s.realAt b)

/-- The elements [0, n) of a complex buffer. -/
def complexOf (s : State) (b : Buffer) (n : Nat) : List (Option (Word × Word)) := (List.range n).map (s.complexAt b)

/-- Small naturals as binary32. -/
def nums (ns : List Nat) : List Word := ns.map numOfNat

/-- After `setup` without the window: the geometry of a legal CFG latched. -/
def latched (W H N : Nat) : State := latchGeometry (configured W H N 0x322BCC77#32)

/-- Storage that holds the given words of each buffer, buffers in address order. -/
def store (parts : List (Buffer × List Word)) : Memory :=
  parts.flatMap fun p => cellsFrom p.1.base (p.2.flatMap wordBytes)

/-- After `setup W, H, N` with rows in WAVE. -/
def ready (W H N : Nat) (rows : List Nat) : State :=
  { latched W H N with
    winValid := true
    mem := store [(.wave, nums rows), (.window, windowArray binary32 W),
      (.norm, normArray binary32 (windowArray binary32 W) (N + W) H (N / H + 1))] }

/-- The geometry of T11 with its two rows. -/
def ramp : State := ready 4 2 6 [1, 2, 3, 4, 5, 6, 6, 5, 4, 3, 2, 1]

/-- Small complex values: element k is (k, k + 1). -/
def pairs (n : Nat) : List (Word × Word) := (List.range n).map fun k => (numOfNat k, numOfNat (k + 1))

/-- The words of complex values. -/
def flat (zs : List (Word × Word)) : List Word := zs.flatMap fun z => [z.1, z.2]

/-- Every element of every buffer holds a value: the rows in WAVE, WIN_GEN's arrays, small naturals elsewhere. -/
def filled (W H N : Nat) (rows : List Nat) : State :=
  { latched W H N with
    winValid := true
    mem := store [
      (.wave, nums rows), (.spec, flat (pairs (2 * (W / 2 + 1) * (N / H + 1)))), (.window, windowArray binary32 W),
      (.norm, normArray binary32 (windowArray binary32 W) (N + W) H (N / H + 1)), (.padded, nums (List.range (N + W))),
      (.padStart, nums (List.replicate (W / 2) 9)), (.padEnd, nums (List.replicate (W / 2) 9)),
      (.windowed, nums (List.replicate W 9)), (.cframes, flat (pairs ((N / H + 1) * (W / 2 + 1)))),
      (.outacc, nums (List.range (N + W)))] }

/-- T11's geometry and rows with every buffer filled. -/
def full : State := filled 4 2 6 [1, 2, 3, 4, 5, 6, 6, 5, 4, 3, 2, 1]

/-- The smallest geometry, W 2, H 2, N 2, with every buffer filled. -/
def tiny : State := filled 2 2 2 [1, 2, 3, 4]

/-! ### Commands -/

/-- T9: NOP after reset. -/
theorem test_nop :
    readsAfter State.reset 0x00000000 [(0x018, 0#32), (0x010, 1#32), (0x00C, 0#32)] = true := by decide +kernel
/-- T9: a failure, then NOP: ERR_INFO keeps the failing word, IRQ_STATUS is 0x3. -/
theorem test_nop_after_failure :
    readsAfter (after State.reset 0x00000019) 0x00000000 [(0x018, 0#32), (0x01C, 0x19#32), (0x010, 3#32)] = true := by
  decide +kernel

/-- T3: the row (8, 7, 12). -/
theorem test_ws_init :
    readsAfter (configured 8 7 12 0x322BCC77#32) 0x00000001
      [(0x040, 8#32), (0x044, 7#32), (0x048, 12#32), (0x04C, 0x322BCC77#32), (0x050, 4#32), (0x054, 20#32),
        (0x058, 2#32), (0x05C, 5#32), (0x060, 0x3EB504F3#32), (0x064, 0x403504F3#32), (0x00C, 0x102#32)] = true := by
  decide +kernel
/-- T4: the code WS_INIT leaves for a row (W, H, N, EPS). -/
def wsInitCode (q : Nat × Nat × Nat × Nat) : Word :=
  csrRead 0x018 (after (configured q.1 q.2.1 q.2.2.1 (BitVec.ofNat 32 q.2.2.2)) 0x00000001)
theorem test_ws_init_errors :
    [(0, 2, 6, 0x322BCC77), (3, 2, 6, 0x322BCC77), (6, 2, 6, 0x322BCC77), (8192, 2, 6, 0x322BCC77),
      (3, 0, 6, 0x322BCC77), (4, 0, 6, 0x322BCC77), (4, 5, 6, 0x322BCC77), (4, 0, 0, 0x322BCC77),
      (4, 2, 0, 0x322BCC77), (4, 2, 2, 0x322BCC77), (4, 2, 3, 0x322BCC77), (4, 2, 4194305, 0x322BCC77),
      (4, 2, 6, 0), (4, 2, 6, 0x80000000), (4, 2, 6, 0xBF800000), (4, 2, 6, 0x7F800000), (4, 2, 6, 0x7FC00000),
      (4, 2, 6, 1), (4, 2, 2, 0), (4, 1, 4095, 0x322BCC77), (4, 1, 4096, 0x322BCC77), (4, 1, 4096, 0)].map wsInitCode =
    [0x10#32, 0x10#32, 0x10#32, 0x10#32, 0x10#32, 0x11#32, 0x11#32, 0x11#32, 0x12#32, 0x12#32, 0x00#32, 0x12#32,
      0x13#32, 0x13#32, 0x13#32, 0x13#32, 0x13#32, 0x00#32, 0x12#32, 0x00#32, 0x14#32, 0x13#32] := by decide +kernel

/-- T5, T6: W 4, H 2, N 6. -/
theorem test_win_gen :
    realsOf (after (latched 4 2 6) 0x00000002) .window 5 =
      [some 0x00000000#32, some 0x3F000000#32, some 0x3F800000#32, some 0x3F000000#32, none] ∧
    realsOf (after (latched 4 2 6) 0x00000002) .norm 11 =
      [some 0x00000000#32, some 0x3E800000#32, some 0x3F800000#32, some 0x3F000000#32, some 0x3F800000#32,
        some 0x3F000000#32, some 0x3F800000#32, some 0x3F000000#32, some 0x3F800000#32, some 0x3E800000#32, none] := by
  decide +kernel
/-- T5: W 8. -/
theorem test_win_gen_8 :
    realsOf (after (latched 8 7 12) 0x00000002) .window 8 =
      [some 0x00000000#32, some 0x3E15F61A#32, some 0x3F000000#32, some 0x3F5A827A#32, some 0x3F800000#32,
        some 0x3F5A827A#32, some 0x3F000000#32, some 0x3E15F61A#32] ∧
    csrRead 0x00C (after (latched 8 7 12) 0x00000002) = 0x206#32 := by decide +kernel

/-- T7: the ramp, W 8, N 8, with row 1 not written. -/
def rampEight : State := ready 8 7 8 [0, 1, 2, 3, 4, 5, 6, 7]
theorem test_load_row :
    realsOf (after rampEight 0x00000010) .padded 16 =
      [none, none, none, none] ++ (nums [0, 1, 2, 3, 4, 5, 6, 7]).map some ++ [none, none, none, none] := by
  decide +kernel
/-- R82: row 1 is unspecified; the fault names its first element. -/
theorem test_load_row_fault :
    faultOf (stepWith rampEight 0x00000110) = some (.unspecifiedRead (.loadRow 1) .wave 8) := by decide +kernel
/-- T7. -/
theorem test_reflect_pad :
    realsOf (after (after rampEight 0x00000010) 0x00000011) .padded 16 =
      (nums [4, 3, 2, 1, 0, 1, 2, 3, 4, 5, 6, 7, 6, 5, 4, 3]).map some ∧
    realsOf (after (after rampEight 0x00000010) 0x00000011) .padStart 4 = (nums [4, 3, 2, 1]).map some ∧
    realsOf (after (after rampEight 0x00000010) 0x00000011) .padEnd 4 = (nums [6, 5, 4, 3]).map some := by
  decide +kernel
/-- T8: the minimum length. -/
theorem test_reflect_pad_minimum :
    realsOf (after (after (ready 4 1 3 [7, 8, 9]) 0x00000010) 0x00000011) .padded 7 =
      (nums [9, 8, 7, 8, 9, 8, 7]).map some := by decide +kernel

/-- T11's PADDED in place. -/
def paddedRamp : State := after (after ramp 0x00000010) 0x00000011
/-- T11: FRAME_FWD 1. -/
theorem test_frame_fwd :
    realsOf (after paddedRamp 0x00000212) .windowed 4 = (nums [0, 1, 3, 2]).map some := by decide +kernel
/-- T9: FRAME_FWD 4 with NB = 4. -/
theorem test_frame_fwd_bad_frame :
    readsAfter ramp 0x00000812 [(0x018, 4#32), (0x01C, 0x812#32), (0x00C, 0x1206#32)] = true := by decide +kernel

/-- R263: SPEC[1][2][3] and SPEC[1][0][1] are CFRAMES[3][2] and CFRAMES[1][0]; the last element of SPEC[0] stays. -/
theorem test_spec_store :
    (after full 0x00000113).complexAt .spec 23 = some (numOfNat 11, numOfNat 12) ∧
    (after full 0x00000113).complexAt .spec 13 = some (numOfNat 3, numOfNat 4) ∧
    (after full 0x00000113).complexAt .spec 11 = some (numOfNat 11, numOfNat 12) := by decide +kernel

/-- T11: after STFT 0. -/
theorem test_stft :
    realsOf (after ramp 0x00000018) .padded 10 = (nums [3, 2, 1, 2, 3, 4, 5, 6, 5, 4]).map some ∧
    realsOf (after ramp 0x00000018) .windowed 4 = (nums [0, 3, 5, 2]).map some := by decide +kernel
/-- R361, worked by hand at W 2, H 2, N 2, rows [1, 2] and [3, 4], WINDOW [0, 1]: the scratch buffers hold channel 1's
values, x = [3, 4] padded to [4, 3, 4, 3], frame 1 windowed to [0, 3]; OUTACC is still unspecified. -/
theorem test_stft_all :
    realsOf (after (ready 2 2 2 [1, 2, 3, 4]) 0x00000019) .padded 4 = (nums [4, 3, 4, 3]).map some ∧
    realsOf (after (ready 2 2 2 [1, 2, 3, 4]) 0x00000019) .windowed 2 = (nums [0, 3]).map some ∧
    realsOf (after (ready 2 2 2 [1, 2, 3, 4]) 0x00000019) .outacc 1 = [none] := by decide +kernel
/-- T9: STFT_ALL after reset. -/
theorem test_stft_all_not_ready :
    readsAfter State.reset 0x00000019 [(0x018, 2#32), (0x01C, 0x19#32), (0x010, 2#32), (0x00C, 0x1900#32)] = true := by
  decide +kernel

/-- R310: CFRAMES[1][2] is SPEC[1][2][1]. -/
theorem test_spec_load :
    (after full 0x00000120).complexAt .cframes 5 = some (numOfNat 21, numOfNat 22) ∧
    (after full 0x00000120).complexAt .cframes 9 = some (numOfNat 15, numOfNat 16) := by decide +kernel
/-- T9: ACC_CLEAR needs no window and no prior contents. -/
theorem test_acc_clear :
    realsOf (after (latched 4 2 6) 0x00000021) .outacc 11 = List.replicate 10 (some 0x00000000#32) ++ [none] := by
  decide +kernel
/-- T12: FRAME_INV 1 scales CFRAMES[1] = (3, 0), (-1.5, 0.5), (0, 0) in place; CFRAMES[0] stays. -/
theorem test_frame_inv :
    complexOf (after (writeComplexes .cframes 3
        [(0x40400000#32, 0#32), (0xBFC00000#32, 0x3F000000#32), (0#32, 0#32)] full) 0x00000222) .cframes 6 =
      (pairs 3).map some ++
        [some (0x40C00000#32, 0#32), some (0xC0400000#32, 0x3F800000#32), some (0#32, 0#32)] := by decide +kernel
/-- T9: FRAME_INV 4 with NB = 4. -/
theorem test_frame_inv_bad_frame :
    readsAfter full 0x00000822 [(0x018, 4#32), (0x01C, 0x822#32)] = true := by decide +kernel
/-- R314: WAVE[1][n] is OUTACC[2 + n]. -/
theorem test_row_store :
    realsOf (after full 0x00000123) .wave 12 = (nums [1, 2, 3, 4, 5, 6, 2, 3, 4, 5, 6, 7]).map some := by
  decide +kernel
/-- R362, R310, R312: W 2, CI = rnd(√2) = 0x3FB504F3 (T3): CFRAMES holds SPEC[1] = (4, 5), (6, 7) at frame 0 scaled. -/
theorem test_istft :
    complexOf (after tiny 0x00000128) .cframes 2 =
      [some (numMul (numOfNat 4) 0x3FB504F3#32, numMul (numOfNat 5) 0x3FB504F3#32),
        some (numMul (numOfNat 6) 0x3FB504F3#32, numMul (numOfNat 7) 0x3FB504F3#32)] := by decide +kernel
/-- P4: STATUS and IRQ_STATUS after ISTFT_ALL. -/
theorem test_istft_all :
    readsAfter tiny 0x00000029 [(0x018, 0#32), (0x00C, 0x2906#32), (0x010, 1#32)] = true := by decide +kernel

/-- T9: ILLEGAL_CMD. -/
theorem test_illegal :
    readsAfter ramp 0x00000112 [(0x018, 1#32), (0x01C, 0x112#32), (0x00C, 0x1206#32)] = true := by decide +kernel
/-- T19: after WS_INIT and WIN_GEN, STFT_ALL reads WAVE, which is unspecified: a model fault. -/
theorem test_ws_init_invalidates :
    faultOf (stepWith (after (after full 0x00000001) 0x00000002) 0x00000019) =
      some (.unspecifiedRead .stftAll .wave 0) ∧
    csrRead 0x00C (after full 0x00000001) = 0x102#32 := by decide +kernel

/-! ### Arithmetic -/

/-- T25: the scale constants, and (1 ⊗ CF) ⊗ CI. -/
theorem test_scales :
    [4, 8, 512, 1024, 2048, 4096].map fwdScaleOf =
      [0x3F000000#32, 0x3EB504F3#32, 0x3D3504F3#32, 0x3D000000#32, 0x3CB504F3#32, 0x3C800000#32] ∧
    [4, 8, 512, 1024, 2048, 4096].map invScaleOf =
      [0x40000000#32, 0x403504F3#32, 0x41B504F3#32, 0x42000000#32, 0x423504F3#32, 0x42800000#32] ∧
    [4, 8, 512, 1024, 2048, 4096].map (fun W => numMul (numMul 0x3F800000#32 (fwdScaleOf W)) (invScaleOf W)) =
      [0x3F800000#32, 0x3F7FFFFF#32, 0x3F7FFFFF#32, 0x3F800000#32, 0x3F7FFFFF#32, 0x3F800000#32] := by decide +kernel
/-- The binary32 patterns of 95_test_vectors.md, T14's 0.5 ⊕ ε = 0.5 and T10's 0.25 ⊕ ε = 0.25. -/
theorem test_arithmetic :
    nums [0, 1, 2, 3, 4, 5, 6, 7, 8, 9, 64] =
      [0x00000000#32, 0x3F800000#32, 0x40000000#32, 0x40400000#32, 0x40800000#32, 0x40A00000#32, 0x40C00000#32,
        0x40E00000#32, 0x41000000#32, 0x41100000#32, 0x42800000#32] ∧
    numAdd 0x3F000000#32 0x322BCC77#32 = 0x3F000000#32 ∧ numAdd 0x3E800000#32 0x322BCC77#32 = 0x3E800000#32 ∧
    numAdd 0x40400000#32 0xC0200000#32 = 0x3F000000#32 ∧ numSub 0x3F800000#32 0x40400000#32 = 0xC0000000#32 ∧
    numDiv 0xBFC00000#32 0x40400000#32 = 0xBF000000#32 := by decide +kernel

/-! ### The Host port, interrupts and reset -/

/-- The response to a transaction. -/
def answer (r : BusReq) (s : State) : Option BusResp := (transact r s).response

/-- T16: the bus errors at the geometry (4, 2, 6). -/
theorem test_bus_errors :
    [BusReq.read 0x10000030#32 4, .read 0x10000002#32 4, .read 0x10000000#32 2, .read 0x200000C0#32 4,
      .write 0x30000000#32 4 0#32, .write 0xA0000000#32 4 0#32, .read 0x40000028#32 4, .read 0x60000008#32 4,
      .read 0xB0000000#32 4, .read 0x00001000#32 4].all
        (fun r => answer r full == some ⟨true, 0#32⟩) = true ∧
    answer (.read 0x10000000#32 4) State.reset = some ⟨true, 0#32⟩ := by decide +kernel
/-- T16: the accepted reads; CFRAMES[3][1].re is element 10 of the frame table. -/
theorem test_bus_reads :
    answer (.read 0x1000002C#32 4) full = some ⟨false, 0x3F800000#32⟩ ∧
    answer (.read 0x90000050#32 4) full = some ⟨false, numOfNat 10⟩ ∧
    answer (.read 0x30000008#32 4) full = some ⟨false, 0x3F800000#32⟩ ∧
    answer (.read 0x40000024#32 4) full = some ⟨false, 0x3E800000#32⟩ ∧
    answer (.read 0x60000004#32 4) full = some ⟨false, numOfNat 9⟩ ∧
    answer (.read 0x00000100#32 4) full = some ⟨false, 0#32⟩ ∧
    answer (.write 0x00000040#32 4 8#32) full = some ⟨false, 0#32⟩ := by decide +kernel
/-- T16: SPEC[1][2][3].im at 0x200000BC, and the bytes of 1.0 at WAVE[0][0], low byte first. -/
theorem test_bus_writes :
    (transact (.write 0x200000BC#32 4 0x40E00000#32) full).complexAt .spec 23 = some (numOfNat 23, numOfNat 7) ∧
    [0, 1, 2, 3].map (fun j => (transact (.write 0x10000000#32 4 0x3F800000#32) full).byteAt (0x10000000 + j)) =
      [some 0x00#8, some 0x00#8, some 0x80#8, some 0x3F#8] := by decide +kernel
/-- T11, T16: the addresses a program's names stand for. -/
theorem test_program_addresses :
    specAddr full 0 1 1 true = 0x2000002C ∧ specAddr full 1 0 0 false = 0x20000060 ∧ waveAddr full 1 5 = 0x1000002C ∧
    cframeAddr full 3 1 false = 0x90000050 ∧
    rdNamed "STATUS" = some [.host (.read 0x0000000C#32 4)] := by decide +kernel
/-- T16, T19: buffers and CMD while busy. -/
theorem test_bus_busy :
    answer (.read 0x10000000#32 4) (acceptCommand 0x19#32 full) = some ⟨true, 0#32⟩ ∧
    answer (.write 0x00000020#32 4 0#32) (acceptCommand 0x19#32 full) = some ⟨true, 0#32⟩ ∧
    (transact (.write 0x00000020#32 4 0#32) (acceptCommand 0x19#32 full)).pending = some ⟨0x19#32, full.cfgRegs⟩ ∧
    answer (.read 0x0000000C#32 4) (acceptCommand 0x19#32 full) = some ⟨false, 0x1907#32⟩ := by decide +kernel
/-- T18: DONE is not cleared by a 0 bit; a masked ERR raises the line once enabled. -/
theorem test_irq :
    (∀ s ∈ [after { State.reset with doneEn := true } 0x00000000],
      s.irq = true ∧ (ackIrq 0x2#32 s).irq = true ∧ (ackIrq 0x1#32 s).irq = false) ∧
    (∀ s ∈ [after { State.reset with doneEn := true } 0x00000019],
      s.irq = false ∧ (setIrqEn 0x3#32 s).irq = true ∧ (setIrqEn 0x0#32 s).irq = false ∧
        (ackIrq 0x3#32 s).irqStatus = 0#32) := by decide +kernel
/-- T19: soft reset while busy leaves the reset state and no completion. -/
theorem test_soft_reset :
    transact (.write 0x00000008#32 4 0x1#32) (acceptCommand 0x19#32 full) =
      { State.reset with response := some ⟨false, 0#32⟩ } := by decide +kernel
/-- R460 to R462: so does the hard reset turn. -/
theorem test_hard_reset :
    step { acceptCommand 0x19#32 full with turns := [.hardReset, .engine] } =
      .next { State.reset with turns := [.engine] } := rfl
/-- T19: a CFG write is latched only at WS_INIT. -/
theorem test_cfg_write :
    [0x030, 0x040, 0x058, 0x00C].map (fun off => csrRead off (transact (.write 0x00000030#32 4 8#32) full)) =
      [8#32, 4#32, 4#32, 6#32] := by
  decide +kernel

/-- R474, R61: a CFG write while WS_INIT is pending is stored, and the WS_INIT latches the value before it. -/
theorem test_cfg_write_while_pending :
    [0x030, 0x040, 0x018].map (fun off =>
      csrRead off (nextOr (engineStep (transact (.write 0x00000030#32 4 8#32) (acceptCommand 0x1#32 full))) full)) =
      [8#32, 4#32, 0#32] := by decide +kernel

/-! ### Another build (R6) -/

/-- WMAX 12, FFT_SUPPORTS 6, 10 and 12, NBMAX 8, and a window table for 10. -/
def otherBuild : Config.Build where
  wMax := 12
  nMax := 64
  nbMax := 8
  fftLengths := .listed [6, 10, 12, 14]
  windows := [(10, nums [9, 8, 7, 6, 5, 4, 3, 2, 1, 0])]

/-- The CFG registers written on that build. -/
def otherConfigured (W H N : Nat) : State :=
  { State.resetOf otherBuild with
    cfgWinLen := BitVec.ofNat 32 W, cfgHop := BitVec.ofNat 32 H, cfgSigLen := BitVec.ofNat 32 N }

/-- R6, R68, R222: the lengths, the capacities and the codes are those of the build. -/
theorem test_build_limits :
    ([(6, 3, 9), (12, 2, 14), (10, 5, 6), (4, 2, 6), (8, 2, 6), (14, 2, 9), (6, 3, 65), (6, 1, 8)].map fun q =>
        csrRead 0x018 (after (otherConfigured q.1 q.2.1 q.2.2) 0x00000001)) =
      [0x00#32, 0x00#32, 0x00#32, 0x10#32, 0x10#32, 0x10#32, 0x12#32, 0x14#32] ∧
    [0x070, 0x074, 0x078].map (fun off => csrRead off (otherConfigured 6 3 9)) = [12#32, 64#32, 8#32] := by
  decide +kernel
/-- R16 by hand at W = 6: cos(2π·4/6) = -1/2. -/
theorem test_build_hann : windowOf otherBuild 6 4 = 0x3F400000#32 := by decide +kernel
/-- R6: a table of the build is stored as it is. -/
theorem test_build_window :
    realsOf (after (latchGeometry (otherConfigured 10 10 6)) 0x00000002) .window 10 =
      (nums [9, 8, 7, 6, 5, 4, 3, 2, 1, 0]).map some := by decide +kernel

/-! ### Witnesses: a state and operands that meet the hypotheses of each statement that has some -/

theorem eq_nextOr {o : Host.Outcome State Fault Refusal} (s : State) (h : isNext o = true) : o = .next (nextOr o s) := by
  cases o with
  | next t => rfl
  | fault r => cases h
  | refused r => cases h

/-- Every active byte of every buffer is listed. -/
def allListed (s : State) : Bool :=
  [Buffer.wave, .spec, .window, .norm, .padded, .padStart, .padEnd, .windowed, .cframes, .outacc].all fun b =>
    (List.range (b.elemSize * b.len s)).all fun k => (s.byteAt (b.base + k)).isSome

theorem allSpecified_of_allListed {s : State} (h : allListed s = true) : s.AllSpecified := by
  intro b a hb
  have hl : ∀ k, k < b.elemSize * b.len s → (s.byteAt (b.base + k)).isSome = true := by
    intro k hk
    unfold allListed at h
    rw [List.all_eq_true] at h
    have := h b (by cases b <;> simp)
    rw [List.all_eq_true] at this
    exact this k (List.mem_range.2 hk)
  obtain ⟨h1, h2⟩ := hb
  simp only [Buffer.addr, Nat.mul_zero, Nat.add_zero, Nat.zero_add] at h1 h2
  have := hl (a - b.base) (by omega)
  rwa [show b.base + (a - b.base) = a by omega] at this

theorem witness_DecodeInvertsEncode : (Instr.frameInv 0x7FFFFF).wellFormed = true := by decide
theorem witness_EncodeInvertsDecode : decode 0xFFFFFE22#32 = .ok (.frameInv 0x7FFFFF) := by decide
theorem witness_DecodeFollowsOpcodeMap :
    (⟨"LOAD_ROW", .c, 0x00000010#32⟩ : OpRow) ∈ opRows ∧
    (⟨"LOAD_ROW", .c, 0x00000010#32⟩ : OpRow).covers 0x00000110#32 = true ∧
    (⟨"FRAME_FWD", .f, 0x00000012#32⟩ : OpRow).covers 0xFFFFFE12#32 = true := by decide
theorem witness_AssemblerAgreesWithEncoder :
    numeral "0x7FFFFF".toList = some (2 ^ 23 - 1) ∧ numeral "8388608".toList = some (2 ^ 23) ∧
    numeral "0x".toList = none ∧ ("00".toList ≠ ['0'] ∧ "00".toList ≠ ['1']) ∧
    (("0000000F".toList).length = 8 ∧ digitsValue 16 0 "0000000F".toList = some 15) ∧
    wordOperand "0xF".toList = none ∧ wordOperand "0x0000000G".toList = none ∧
    "HALT".toList ≠ ".word".toList ∧ rowOf "HALT".toList = none := by decide
theorem witness_StepRunsDecodedCommand :
    (acceptCommand 0x22#32 tiny).pending = some ⟨0x22#32, tiny.cfgRegs⟩ ∧ decode 0x22#32 = .ok (.frameInv 0) ∧
    (acceptCommand 0x22#32 tiny).turns = [] ∧
    { acceptCommand 0x22#32 tiny with turns := [.engine] }.turns = .engine :: [] := by decide
theorem witness_IllegalWordFails :
    (acceptCommand 0x3#32 tiny).pending = some ⟨0x3#32, tiny.cfgRegs⟩ ∧ (acceptCommand 0x3#32 tiny).turns = [] ∧
    ∀ i, decode 0x3#32 ≠ .ok i := by
  refine ⟨rfl, rfl, fun i h => ?_⟩
  rw [show decode 0x3#32 = .error (.unassignedOp 3) by decide] at h
  cases h
/-- One state per clause; the frame is NB in the third. -/
theorem witness_CommonChecksInOrder :
    (Instr.loadRow 0 ≠ .nop ∧ Instr.loadRow 0 ≠ .wsInit ∧ State.reset.wsValid = false) ∧
    (Instr.istft 1 ∈ [Instr.frameFwd 0, .frameInv 0, .stft 1, .stftAll, .istft 1, .istftAll] ∧
      (latched 4 2 6).wsValid = true ∧ (latched 4 2 6).winValid = false) ∧
    (Instr.frameInv 4 ∈ [Instr.frameFwd 4, .frameInv 4] ∧ full.wsValid = true ∧ full.winValid = true ∧
      full.nbFrames.toNat ≤ 4) := by decide
/-- One CFG per clause, at the ends of the legal ranges (T4). -/
theorem witness_WsInitChecksInOrder :
    [(0, 2, 6, 1), (4097, 2, 6, 1), (4, 0, 6, 1), (4, 5, 6, 1), (4, 4, 2, 1), (4, 1, 4194305, 1), (4, 2, 3, 0),
      (4, 2, 3, 0x80000000), (4, 2, 3, 0x7F800000), (4, 1, 4096, 1)].map wsInitCode =
    [0x10#32, 0x10#32, 0x11#32, 0x11#32, 0x12#32, 0x12#32, 0x13#32, 0x13#32, 0x13#32, 0x14#32] := by decide +kernel

theorem witness_SuccessCompletesOnce :
    commandError (.loadRow 0) tiny = none ∧ ∃ t, exec (.loadRow 0) tiny = .next t :=
  ⟨by decide +kernel, exists_of_isNext (by decide +kernel)⟩
/-- A success and a failure. -/
theorem witness_FailureIsPrecise :
    (∃ t, exec (.loadRow 0) tiny = .next t) ∧ (∃ t, exec (.frameInv 2) tiny = .next t) ∧
    commandError (.frameInv 2) tiny = some .badFrame :=
  ⟨exists_of_isNext (by decide +kernel), exists_of_isNext (by decide +kernel), by decide +kernel⟩
theorem witness_CommandsLeaveConfigurationAlone : ∃ t, exec .wsInit (configured 4 2 6 1#32) = .next t :=
  exists_of_isNext (by decide +kernel)
/-- `tiny` with REFLECT_PAD pending, and with a CTRL write whose bit 0 is clear to come. -/
def tinyPadding : State := acceptCommand 0x11#32 tiny
theorem tinyPadding_runs {i : Instr} (h : i ≠ .reflectPad) : ¬ tinyPadding.Runs i := by
  rintro ⟨-, p, hp, hd⟩
  cases Option.some.inj hp
  exact h (Except.ok.inj hd).symm
theorem witness_GeometryChangesOnlyByWsInit :
    (∃ t, exec .reflectPad tiny = .next t) ∧ (Turn.host (.write 0x00000008#32 4 0xFFFFFFFE#32)).isReset = false ∧
    (tinyPadding.nextTurn.isReset = false ∧ ¬ tinyPadding.Runs .wsInit ∧ ¬ tinyPadding.Runs .winGen ∧
      ∃ t, step tinyPadding = .next t) :=
  ⟨exists_of_isNext (by decide +kernel), by decide, by decide, tinyPadding_runs (by decide),
    tinyPadding_runs (by decide), exists_of_isNext (by decide +kernel)⟩
theorem witness_IrqFollowsCompletion :
    (∃ t, exec .accClear tiny = .next t) ∧ commandError .accClear tiny = none ∧
    (∃ t, exec .accClear State.reset = .next t) ∧ commandError .accClear State.reset = some .wsNotReady :=
  ⟨exists_of_isNext (by decide +kernel), by decide +kernel, exists_of_isNext (by decide +kernel), by decide +kernel⟩
theorem witness_FaultsNameAnUnspecifiedElement :
    faultOf (exec (.loadRow 1) rampEight) = some (.unspecifiedRead (.loadRow 1) .wave 8) ∧
    faultOf (exec (.specStore 0) rampEight) = some (.unspecifiedRead (.specStore 0) .cframes 0) := by decide +kernel
theorem tiny_geometryLegal : tiny.GeometryLegal := by decide +kernel
theorem tiny_arraysValid : tiny.ArraysValid := by decide +kernel
theorem witness_SpecifiedBuffersNeverFault :
    (Instr.istft 1).wellFormed = true ∧ tiny.GeometryLegal ∧ tiny.AllSpecified :=
  ⟨by decide, tiny_geometryLegal, allSpecified_of_allListed (by decide +kernel)⟩

theorem other_buildLegal : BuildLegal otherBuild := by
  have h : (otherBuild.windows.all fun t =>
      decide (t.2.length = t.1) && t.2.all fun w => decide (magBits w < infMag)) = true := by decide +kernel
  refine ⟨by decide, by decide, by decide, by decide, fun t ht => ?_⟩
  simpa using List.all_eq_true.1 h t ht
/-- The ends of the ranges N = P + 1, NB = NBMAX and W = WMAX with N = NMAX, on both builds. -/
theorem witness_WsInitLatchesGeometry :
    ∀ s ∈ [configured 4 4 3 1#32, configured 4 1 4095 1#32, configured 4096 4096 4194304 0x7F7FFFFF#32,
        otherConfigured 12 12 64, acceptCommand 0x1#32 (otherConfigured 6 1 7)],
      s.wsCfg.winLen.toNat % 2 = 0 ∧ 2 ≤ s.wsCfg.winLen.toNat ∧ s.wsCfg.winLen.toNat ≤ s.build.wMax ∧
      fftSupports s.build s.wsCfg.winLen.toNat = true ∧ 1 ≤ s.wsCfg.hop.toNat ∧
      s.wsCfg.hop.toNat ≤ s.wsCfg.winLen.toNat ∧ s.wsCfg.winLen.toNat / 2 + 1 ≤ s.wsCfg.sigLen.toNat ∧
      s.wsCfg.sigLen.toNat ≤ s.build.nMax ∧ s.wsCfg.eps.getLsbD 31 = false ∧
      s.wsCfg.eps.extractLsb' 23 8 ≠ 0xFF#8 ∧ s.wsCfg.eps ≠ 0#32 ∧
      s.wsCfg.sigLen.toNat / s.wsCfg.hop.toNat + 1 ≤ s.build.nbMax := by decide +kernel
theorem witness_WinGenFillsArrays : (latched 4 2 6).wsValid = true ∧ (latched 4 2 6).GeometryLegal := by decide +kernel
/-- The last frame and the first refused one. -/
theorem witness_FrameCountIsExact :
    full.wsValid = true ∧ full.winValid = true ∧ full.GeometryLegal ∧ 3 < full.gNB ∧ ¬ 4 < full.gNB := by decide +kernel
theorem witness_LoadRowCopiesTheRow :
    full.wsValid = true ∧ (nums [6, 5, 4, 3, 2, 1]).length = full.gN ∧
    full.ReadsAs .wave (1 * full.gN) (nums [6, 5, 4, 3, 2, 1]) := by decide +kernel
theorem witness_ReflectPadMirrorsTheCentre :
    full.wsValid = true ∧ full.GeometryLegal ∧ (nums [2, 3, 4, 5, 6, 7]).length = full.gN ∧
    full.ReadsAs .padded full.gP (nums [2, 3, 4, 5, 6, 7]) := by decide +kernel
theorem witness_ReflectionIsExact :
    tiny.GeometryLegal ∧ tiny.wsValid = true ∧ tiny.gP + 1 ≤ tiny.gN ∧ (nums [3, 4]).length = tiny.gN ∧
    tiny.ReadsAs .wave (1 * tiny.gN) (nums [3, 4]) ∧
    (∃ u t, exec (.loadRow 1) tiny = .next u ∧ exec .reflectPad u = .next t) ∧ 1 ≤ 1 ∧ 1 ≤ tiny.gP :=
  ⟨tiny_geometryLegal, by decide +kernel, by decide +kernel, by decide +kernel, by decide +kernel,
    ⟨_, _, eq_nextOr tiny (by decide +kernel), eq_nextOr tiny (by decide +kernel)⟩, by decide, by decide +kernel⟩
/-- The last frame. -/
theorem witness_FrameFwdTransformsTheSegment :
    full.wsValid = true ∧ full.winValid = true ∧ full.GeometryLegal ∧ 3 < full.gNB ∧
    (nums [6, 7, 8, 9]).length = full.gW ∧ (windowArray binary32 4).length = full.gW ∧
    full.ReadsAs .padded (3 * full.gH) (nums [6, 7, 8, 9]) ∧ full.ReadsAs .window 0 (windowArray binary32 4) := by
  decide +kernel
theorem witness_SpecStoreTransposesTheFrames :
    full.wsValid = true ∧ ∀ f b, f < full.gNB → b < full.gNBINS →
      full.complexAt .cframes (f * full.gNBINS + b) = some (numOfNat (f * 3 + b), numOfNat (f * 3 + b + 1)) := by
  refine ⟨by decide +kernel, ?_⟩
  have h : ∀ f, f < full.gNB → ∀ b, b < full.gNBINS →
      full.complexAt .cframes (f * full.gNBINS + b) = some (numOfNat (f * 3 + b), numOfNat (f * 3 + b + 1)) := by
    decide +kernel
  exact fun f b hf hb => h f hf b hb

theorem tiny_spec (c : Nat) (hc : c < 2) :
    ∀ f b, f < tiny.gNB → b < tiny.gNBINS →
      tiny.complexAt .spec ((c * tiny.gNBINS + b) * tiny.gNB + f) =
        some (numOfNat ((c * 2 + b) * 2 + f), numOfNat ((c * 2 + b) * 2 + f + 1)) := by
  have h : ∀ c, c < 2 → ∀ f, f < tiny.gNB → ∀ b, b < tiny.gNBINS →
      tiny.complexAt .spec ((c * tiny.gNBINS + b) * tiny.gNB + f) =
        some (numOfNat ((c * 2 + b) * 2 + f), numOfNat ((c * 2 + b) * 2 + f + 1)) := by decide +kernel
  exact fun f b hf hb => h c hc f hf b hb
theorem witness_SpecLoadTransposesTheTensor :
    tiny.wsValid = true ∧ ∀ f b, f < tiny.gNB → b < tiny.gNBINS →
      tiny.complexAt .spec ((1 * tiny.gNBINS + b) * tiny.gNB + f) =
        some (numOfNat ((1 * 2 + b) * 2 + f), numOfNat ((1 * 2 + b) * 2 + f + 1)) :=
  ⟨by decide +kernel, tiny_spec 1 (by decide)⟩
theorem witness_AccClearZeroesTheAccumulator : (latched 4 2 6).wsValid = true := by decide +kernel
/-- The last frame. -/
theorem witness_FrameInvOverlapAdds :
    full.wsValid = true ∧ full.winValid = true ∧ full.GeometryLegal ∧ 3 < full.gNB ∧
    ((pairs 12).drop 9).length = full.gNBINS ∧ (nums [6, 7, 8, 9]).length = full.gW ∧
    full.ReadsComplexAs .cframes (3 * full.gNBINS) ((pairs 12).drop 9) ∧
    full.ReadsAs .outacc (3 * full.gH) (nums [6, 7, 8, 9]) ∧ full.ReadsAs .window 0 (windowArray binary32 4) ∧
    full.ReadsAs .norm (3 * full.gH) [0x3F800000#32, 0x3F000000#32, 0x3F800000#32, 0x3E800000#32] := by decide +kernel
theorem witness_EdgeImaginaryPartsAreIgnored :
    ∀ k, k < [(1#32, 7#32), (2#32, 3#32), (4#32, 5#32)].length →
      ([(1#32, 7#32), (2#32, 3#32), (4#32, 5#32)][k]?).map Prod.fst =
        ([(1#32, 0#32), (2#32, 3#32), (4#32, 9#32)][k]?).map Prod.fst ∧
      (k ≠ 0 → k ≠ 4 / 2 →
        [(1#32, 7#32), (2#32, 3#32), (4#32, 5#32)][k]? = [(1#32, 0#32), (2#32, 3#32), (4#32, 9#32)][k]?) := by decide
theorem witness_RowStoreCopiesTheCentre :
    full.wsValid = true ∧ (nums [2, 3, 4, 5, 6, 7]).length = full.gN ∧
    full.ReadsAs .outacc full.gP (nums [2, 3, 4, 5, 6, 7]) := by decide +kernel

theorem tiny_rows (c : Nat) (hc : c < 2) :
    (nums [2 * c + 1, 2 * c + 2]).length = tiny.gN ∧ tiny.ReadsAs .wave (c * tiny.gN) (nums [2 * c + 1, 2 * c + 2]) := by
  have h : ∀ c, c < 2 → (nums [2 * c + 1, 2 * c + 2]).length = tiny.gN ∧
      tiny.ReadsAs .wave (c * tiny.gN) (nums [2 * c + 1, 2 * c + 2]) := by decide +kernel
  exact h c hc
theorem witness_StftComputesTheForwardPass :
    1 < 2 ∧ full.wsValid = true ∧ full.winValid = true ∧ full.GeometryLegal ∧ full.ArraysValid ∧
    (nums [6, 5, 4, 3, 2, 1]).length = full.gN ∧ full.ReadsAs .wave (1 * full.gN) (nums [6, 5, 4, 3, 2, 1]) := by
  decide +kernel
theorem witness_StftAllComputesBothForwardPasses :
    tiny.wsValid = true ∧ tiny.winValid = true ∧ tiny.GeometryLegal ∧ tiny.ArraysValid ∧
    ∀ c, c < 2 → (nums [2 * c + 1, 2 * c + 2]).length = tiny.gN ∧
      tiny.ReadsAs .wave (c * tiny.gN) (nums [2 * c + 1, 2 * c + 2]) :=
  ⟨by decide +kernel, by decide +kernel, tiny_geometryLegal, tiny_arraysValid, tiny_rows⟩

/-- The frames SPEC holds for channel c of `tiny`. -/
def tinyFrames (c : Nat) : List (List (Word × Word)) :=
  (List.range 2).map fun f => (List.range 2).map fun b =>
    (numOfNat ((c * 2 + b) * 2 + f), numOfNat ((c * 2 + b) * 2 + f + 1))
theorem tiny_specHolds (c : Nat) (hc : c < 2) : SpecHolds tiny c (tinyFrames c) := by
  have hn : tiny.gNB = 2 ∧ tiny.gNBINS = 2 := by decide +kernel
  refine ⟨by simp [tinyFrames, hn.1], ?_, ?_⟩
  · intro fr h
    simp only [tinyFrames, List.mem_map] at h
    obtain ⟨f, -, rfl⟩ := h
    simp [hn.2]
  · intro f b hf hb
    rw [tiny_spec c hc f b hf hb]
    rw [hn.1] at hf
    rw [hn.2] at hb
    simp [tinyFrames, hf, hb]
theorem witness_IstftComputesTheInversePass :
    1 < 2 ∧ tiny.wsValid = true ∧ tiny.winValid = true ∧ tiny.GeometryLegal ∧ tiny.ArraysValid ∧
    SpecHolds tiny 1 (tinyFrames 1) :=
  ⟨by decide, by decide +kernel, by decide +kernel, tiny_geometryLegal, tiny_arraysValid, tiny_specHolds 1 (by decide)⟩
theorem witness_IstftAllComputesBothInversePasses :
    tiny.wsValid = true ∧ tiny.winValid = true ∧ tiny.GeometryLegal ∧ tiny.ArraysValid ∧
    ∀ c, c < 2 → SpecHolds tiny c (tinyFrames c) :=
  ⟨by decide +kernel, by decide +kernel, tiny_geometryLegal, tiny_arraysValid, tiny_specHolds⟩
theorem witness_DriversEqualTheirSteps :
    tiny.wsValid = true ∧ tiny.winValid = true ∧ (∃ t, exec (.stft 1) tiny = .next t) ∧
    ∃ t, exec .istftAll tiny = .next t :=
  ⟨by decide +kernel, by decide +kernel, exists_of_isNext (by decide +kernel), exists_of_isNext (by decide +kernel)⟩

/-- `tiny` with another channel 0, in WAVE and in SPEC, and another PADDED. -/
def tinyOther : State :=
  writeReals .padded 0 (nums [8, 8, 8, 8]) (writeComplexes .spec 0 (pairs 3 ++ [(numOfNat 8, numOfNat 8)])
    (writeReals .wave 0 (nums [7, 9]) tiny))
theorem tinyOther_specHolds : SpecHolds tinyOther 1 (tinyFrames 1) := by
  have h : ∀ f, f < tiny.gNB → ∀ b, b < tiny.gNBINS →
      tinyOther.complexAt .spec ((1 * tiny.gNBINS + b) * tiny.gNB + f) =
        tiny.complexAt .spec ((1 * tiny.gNBINS + b) * tiny.gNB + f) := by decide +kernel
  obtain ⟨h1, h2, h3⟩ := tiny_specHolds 1 (by decide)
  exact ⟨h1, h2, fun f b hf hb => (h f hf b hb).trans (h3 f b hf hb)⟩
theorem witness_ChannelsAreIndependent :
    1 < 2 ∧ tiny.GeometryLegal ∧ tinyOther.GeometryLegal ∧ tiny.ArraysValid ∧ tinyOther.ArraysValid ∧
    SameGeometry tiny tinyOther ∧ tiny.wsValid = true ∧ tinyOther.wsValid = true ∧ tiny.winValid = true ∧
    tinyOther.winValid = true ∧ (nums [3, 4]).length = tiny.gN ∧ tiny.ReadsAs .wave (1 * tiny.gN) (nums [3, 4]) ∧
    tinyOther.ReadsAs .wave (1 * tiny.gN) (nums [3, 4]) ∧ (∃ t, exec (.stft 1) tiny = .next t) ∧
    (∃ t, exec (.stft 1) tinyOther = .next t) ∧ SpecHolds tiny 1 (tinyFrames 1) ∧
    SpecHolds tinyOther 1 (tinyFrames 1) ∧ (∃ t, exec (.istft 1) tiny = .next t) ∧
    ∃ t, exec (.istft 1) tinyOther = .next t :=
  ⟨by decide, tiny_geometryLegal, by decide +kernel, tiny_arraysValid, by decide +kernel, by decide +kernel,
    by decide +kernel, by decide +kernel, by decide +kernel, by decide +kernel, by decide +kernel, by decide +kernel,
    by decide +kernel, exists_of_isNext (by decide +kernel), exists_of_isNext (by decide +kernel),
    tiny_specHolds 1 (by decide), tinyOther_specHolds, exists_of_isNext (by decide +kernel),
    exists_of_isNext (by decide +kernel)⟩

/-- `tiny` with STFT_ALL pending. -/
def tinyBusy : State := acceptCommand 0x19#32 tiny
theorem witness_FlagInvariantsAreKept : tinyBusy.FlagsCoherent ∧ ∃ t, step tinyBusy = .next t :=
  ⟨by decide +kernel, exists_of_isNext (by decide +kernel)⟩
theorem witness_StorageStaysCanonical : tinyBusy.MemCanonical ∧ ∃ t, step tinyBusy = .next t :=
  ⟨by decide +kernel, exists_of_isNext (by decide +kernel)⟩
theorem witness_InvariantIsKept : tinyBusy.Inv ∧ ∃ t, step tinyBusy = .next t :=
  ⟨⟨by decide +kernel, by decide +kernel, by decide +kernel, by decide +kernel, by decide +kernel⟩,
    exists_of_isNext (by decide +kernel)⟩
/-- A build of its own, beside the default one. -/
theorem witness_InvariantHoldsAtReset : BuildLegal otherBuild ∧ otherBuild ≠ Config.Build.default :=
  ⟨other_buildLegal, by decide⟩
/-- The first byte of WINDOW and the last of NORM, with a command, a transaction and a step. -/
theorem witness_WindowAndNormAreImmutable :
    tiny.GeometryLegal ∧ tiny.InBuffer .window 0x30000000 ∧ tiny.InBuffer .norm 0x4000000F ∧
    (Instr.reflectPad.wellFormed = true ∧ Instr.reflectPad ≠ .winGen ∧ Instr.reflectPad ≠ .wsInit ∧
      ∃ t, exec .reflectPad tiny = .next t) ∧
    (Turn.host (.write 0x10000000#32 4 1#32)).isReset = false ∧
    (tinyPadding.GeometryLegal ∧ tinyPadding.nextTurn.isReset = false ∧ ¬ tinyPadding.Runs .winGen ∧
      ¬ tinyPadding.Runs .wsInit ∧ ∃ t, step tinyPadding = .next t) :=
  ⟨tiny_geometryLegal, by decide +kernel, by decide +kernel,
    ⟨by decide, by decide, by decide, exists_of_isNext (by decide +kernel)⟩, by decide,
    by decide +kernel, by decide, tinyPadding_runs (by decide), tinyPadding_runs (by decide),
    exists_of_isNext (by decide +kernel)⟩

/-- A tie, and the first value that rounds to infinity. -/
theorem witness_RoundingIsNearestEven :
    0 < 1 ∧ roundMag (2 ^ 24 + 1) 1 < infMag ∧ 2 ^ 24 / 2 < infMag ∧ 2 ^ 24 / 2 ≠ roundMag (2 ^ 24 + 1) 1 ∧
    (2 ^ 25 - 1) * 2 ^ 252 * 1 ≤ (2 ^ 25 - 1) * 2 ^ 252 := by decide +kernel
/-- The largest finite operand and a subnormal one, with the model's answers on both sides of the threshold (R10). -/
theorem witness_ArithmeticIsCorrectlyRounded :
    magBits 0x7F7FFFFF#32 < infMag ∧ magBits 0x80000001#32 < infMag ∧ magBits 0x80000001#32 ≠ 0 ∧
    numAdd 0x7F7FFFFF#32 0x80000001#32 = 0x7F7FFFFF#32 ∧ numSub 0xFF7FFFFF#32 0x73000000#32 = 0xFF800000#32 ∧
    numAdd 0x7F7FFFFF#32 0x72FFFFFF#32 = 0x7F7FFFFF#32 := by decide +kernel
theorem witness_NaNPropagates :
    isNaN 0x7F800001#32 = true ∧ isNaN 0xFFFFFFFF#32 = true ∧ isInf 0x7F800000#32 = true ∧ isInf 0xFF800000#32 = true ∧
    signBit 0x7F800000#32 ≠ signBit 0xFF800000#32 ∧ magBits 0x80000000#32 = 0 := by decide
/-- A power of two at its last index; 12, whose bounds agree, at both ends. -/
theorem witness_WindowIsCorrectlyRoundedHann :
    (2 ≤ 4096 ∧ 4095 < 4096 ∧ isPowerOfTwo 4096 = true) ∧ (2 ≤ 12 ∧ isPowerOfTwo 12 = false) ∧
    ∀ i ∈ [0, 11], i < 12 ∧ (hannBounds 12 (min i (12 - i))).1 = (hannBounds 12 (min i (12 - i))).2 := by
  decide +kernel
theorem witness_ScalesAreCorrectlyRounded : 2 ≤ 2 ∧ 2 ≤ 2 ^ 32 - 1 ∧ 2 ^ 32 - 1 < 2 ^ 32 := by decide
theorem witness_DenominatorIsPositive :
    tiny.wsValid = true ∧ tiny.winValid = true ∧ tiny.GeometryLegal ∧ tiny.ArraysValid ∧ 3 < tiny.gL ∧
    tiny.realAt .norm 0 = some 0x00000000#32 ∧ tiny.realAt .norm 3 = some 0x3F800000#32 :=
  ⟨by decide +kernel, by decide +kernel, tiny_geometryLegal, tiny_arraysValid, by decide +kernel, by decide +kernel,
    by decide +kernel⟩
theorem witness_ReferenceInverseIdentity : 4 % 2 = 0 ∧ 2 ≤ 4 ∧ ([0, 1, 3, 2] : List ℝ).length = 4 ∧ 3 < 4 :=
  ⟨by decide, by decide, rfl, by decide⟩
theorem witness_NormIsTheSumOfSquares :
    1 ≤ 2 ∧ (0 : ℝ) < 1 ∧ ([0, 1, 1, 0] : List ℝ).length = 4 ∧ 9 < 6 + 4 :=
  ⟨by decide, one_pos, rfl, by decide⟩
theorem witness_RoundTripLaw :
    4 % 2 = 0 ∧ 2 ≤ 4 ∧ 1 ≤ 4 ∧ 4 ≤ 4 ∧ 4 / 2 + 1 ≤ 3 ∧ ([1, 2, 3] : List ℝ).length = 3 ∧ (0 : ℝ) < 1 ∧ 2 < 3 :=
  ⟨by decide, by decide, by decide, by decide, by decide, rfl, one_pos, by decide⟩
theorem witness_ZeroLaw : 4 % 2 = 0 ∧ 2 ≤ 4 ∧ 1 ≤ 2 ∧ 2 ≤ 4 ∧ 4 / 2 + 1 ≤ 6 ∧ (0 : ℝ) < 1 :=
  ⟨by decide, by decide, by decide, by decide, by decide, one_pos⟩

/-- The last word of WAVE and of SPEC. -/
theorem witness_HostWritesReadBack :
    full.wsValid = true ∧ full.pending = none ∧ 44 % 4 = 0 ∧ 44 < Buffer.wave.len full * Buffer.wave.elemSize ∧
    188 % 4 = 0 ∧ 188 < Buffer.spec.len full * Buffer.spec.elemSize ∧ 188 < 2 ^ 28 := by decide +kernel
/-- The last element of each window. -/
theorem witness_WindowsShowTheElements :
    full.wsValid = true ∧ full.GeometryLegal ∧ full.pending = none ∧
    full.realAt .wave (1 * full.gN + 5) = some (numOfNat 1) ∧
    full.complexAt .spec ((1 * full.gNBINS + 2) * full.gNB + 3) = some (numOfNat 23, numOfNat 24) ∧
    full.complexAt .cframes (3 * full.gNBINS + 2) = some (numOfNat 11, numOfNat 12) ∧
    1 < 2 ∧ 5 < full.gN ∧ 2 < full.gNBINS ∧ 3 < full.gNB ∧
    ∀ q ∈ [(Buffer.window, full.gW, 0x3F000000#32), (.norm, full.gL, 0x3E800000#32), (.padded, full.gL, numOfNat 9),
        (.padStart, full.gP, numOfNat 9), (.padEnd, full.gP, numOfNat 9), (.windowed, full.gW, numOfNat 9),
        (.outacc, full.gL, numOfNat 9)],
      q.2.1 - 1 < q.2.1 ∧ full.realAt q.1 (q.2.1 - 1) = some q.2.2 := by decide +kernel
theorem witness_CmdWriteIsAcceptedWhenIdle : tiny.pending = none ∧ tinyBusy.pending.isSome = true := by decide
/-- A read-only, a reserved and the last CSR offset; offsets that read 0, the write-only CMD and CTRL among them. -/
theorem witness_CsrReadsShowTheRegisters :
    (∀ off ∈ [0x040, 0x024, 0xFFC], off < 0x1000 ∧ off % 4 = 0 ∧
      off ∉ [0x008, 0x010, 0x014, 0x020, 0x030, 0x034, 0x038, 0x03C]) ∧
    ∀ off ∈ [0x008, 0x020, 0x024, 0xFFC], off < 0x1000 ∧ off % 4 = 0 ∧
      off ∉ [0x000, 0x004, 0x00C, 0x010, 0x014, 0x018, 0x01C, 0x030, 0x034, 0x038, 0x03C, 0x040, 0x044, 0x048, 0x04C,
        0x050, 0x054, 0x058, 0x05C, 0x060, 0x064, 0x070, 0x074, 0x078] := by decide
theorem witness_ResetLeavesTheResetState :
    (0x00000001#32).getLsbD 0 = true ∧
    { tinyBusy with turns := [.hardReset, .engine] }.turns = .hardReset :: [.engine] := by decide
/-- WS_INIT and STFT_ALL pending, under a CFG write. -/
theorem witness_LatencyIndependence :
    (Turn.host (.write 0x00000030#32 4 8#32)).isReset = false ∧
    ((acceptCommand 0x1#32 tiny).pending = some ⟨0x1#32, tiny.cfgRegs⟩ ∧
      (∃ t, executeWord 0x1#32 (acceptCommand 0x1#32 tiny) = .next t) ∧
      ∃ u, executeWord 0x1#32 (transact (.write 0x00000030#32 4 8#32) (acceptCommand 0x1#32 tiny)) = .next u) ∧
    (tinyBusy.pending = some ⟨0x19#32, tiny.cfgRegs⟩ ∧ (∃ t, executeWord 0x19#32 tinyBusy = .next t) ∧
      ∃ u, executeWord 0x19#32 (transact (.write 0x00000030#32 4 8#32) tinyBusy) = .next u) :=
  ⟨by decide,
    ⟨by decide +kernel, exists_of_isNext (by decide +kernel), exists_of_isNext (by decide +kernel)⟩,
    by decide +kernel, exists_of_isNext (by decide +kernel), exists_of_isNext (by decide +kernel)⟩

end Sys2Proof.Tests
end

section
/-! Frame count and reflection (41_stft.md R264, R265): what a ready command, a write of real elements and the two
writes of the pads do, and from these the two statements. -/

namespace Sys2Proof.Proofs.Stft

open Sys2Proof.Machine

/-! ### A ready command -/

/-- The frame check of FRAME_FWD passes exactly below NB (R402). -/
theorem frameTooLarge_frameFwd_iff (f : Nat) (s : State) :
    frameTooLarge (.frameFwd f) s = false ↔ f < s.gNB := by
  simp [frameTooLarge, frameOperand]

/-- With both flags set, the frame check is the only one FRAME_FWD can fail (R402). -/
theorem frameFwd_accepted_iff {s : State} (f : Nat) (hws : s.wsValid = true) (hwin : s.winValid = true) :
    commandError (.frameFwd f) s = none ↔ f < s.gNB := by
  rw [← frameTooLarge_frameFwd_iff]
  constructor
  · intro h
    obtain ⟨-, -, hframe, -⟩ := commandError_none h
    exact hframe
  · exact commandError_of_ready (by simp) hws fun _ => hwin

/-- A command that no check can fail answers next by running its body and succeeding (R402, R406). -/
theorem exec_next_of_accepted {i : Instr} {s t : State} (he : commandError i s = none) (h : exec i s = .next t) :
    ∃ u, bodyOf i s = .ok u ∧ t = succeed u := by
  obtain ⟨e, herr, -⟩ | ⟨-, hbody⟩ := (exec_next_iff i s t).1 h
  · simp [he] at herr
  · exact hbody

/-! ### Reading and writing real elements -/

/-- Two lists that a buffer holds agree where their ranges overlap. -/
theorem getElem?_eq_of_readsAs {s : State} {b : Buffer} {start start' i j : Nat} {x y : List Word}
    (hx : s.ReadsAs b start x) (hy : s.ReadsAs b start' y) (hi : i < x.length) (hj : j < y.length)
    (hij : start + i = start' + j) : x[i]? = y[j]? := by
  rw [← hx i hi, ← hy j hj, hij]

/-- A range of a buffer holds at most one list of a length. -/
theorem readsAs_unique {s : State} {b : Buffer} {start : Nat} {x y : List Word} (hlen : x.length = y.length)
    (hx : s.ReadsAs b start x) (hy : s.ReadsAs b start y) : x = y := by
  refine List.ext_getElem? fun i => ?_
  by_cases hi : i < x.length
  · exact getElem?_eq_of_readsAs hx hy hi (hlen ▸ hi) rfl
  · rw [List.getElem?_eq_none (by omega), List.getElem?_eq_none (by omega)]

/-- A write leaves the elements of its own buffer outside the written range as they were. -/
theorem realAt_writeReals_of_not {b : Buffer} (hb : b.elemSize = 4) {start e : Nat} {vs : List Word} (s : State)
    (h : e < start ∨ start + vs.length ≤ e) : (writeReals b start vs s).realAt b e = s.realAt b e := by
  apply word_writeWords_of_not
  simp only [Buffer.addr, hb]
  omega

/-- Completion leaves every element as it was (R406). -/
@[simp] theorem realAt_succeed (s : State) (b : Buffer) (e : Nat) : (succeed s).realAt b e = s.realAt b e := rfl

/-! ### LOAD_ROW -/

/-- An accepted LOAD_ROW leaves the row in the centre of PADDED (R260). -/
theorem loadRow_next {c : Nat} {s u : State} {x : List Word} (hws : s.wsValid = true) (hlen : x.length = s.gN)
    (hx : s.ReadsAs .wave (c * s.gN) x) (h : exec (.loadRow c) s = .next u) :
    u = succeed (writeReals .padded s.gP x s) := by
  have haccepted : commandError (.loadRow c) s = none := commandError_of_ready (by simp) hws (by simp [needsWin]) rfl
  obtain ⟨v, hbody, rfl⟩ := exec_next_of_accepted haccepted h
  obtain ⟨row, hrow, hreads, rfl⟩ := (loadRowBody_ok_iff _ _ _ _).1 hbody
  rw [readsAs_unique (hlen.trans hrow.symm) hx hreads]

/-! ### REFLECT_PAD -/

/-- The right pad, written last, holds the samples inside the right edge reversed (R261). -/
theorem writePads_right (first last : List Word) (s : State) :
    (writePads first last s).ReadsAs .padded (s.gP + s.gN) last.reverse :=
  realAt_writeReals _ rfl _ _ _

/-- The left pad holds the samples inside the left edge reversed: the write of the right pad starts behind it (R261). -/
theorem writePads_left {first : List Word} (last : List Word) {s : State} (hfirst : first.length = s.gP) :
    (writePads first last s).ReadsAs .padded 0 first.reverse := by
  intro i hi
  have hbefore : 0 + i < s.gP + s.gN := by rw [List.length_reverse] at hi; omega
  unfold writePads
  rw [realAt_writeReals_of_not rfl _ (.inl hbefore)]
  exact realAt_writeReals _ rfl _ _ _ i hi

/-- An accepted REFLECT_PAD mirrors the centre of PADDED about both of its boundary samples (R261). -/
theorem reflectPad_mirrors {s t : State} {x : List Word} (hws : s.wsValid = true) (hPN : s.gP + 1 ≤ s.gN)
    (hlen : x.length = s.gN) (hx : s.ReadsAs .padded s.gP x) (h : exec .reflectPad s = .next t) {m : Nat}
    (hm : 1 ≤ m) (hmP : m ≤ s.gP) :
    t.realAt .padded (s.gP - m) = x[m]? ∧ t.realAt .padded (s.gP + s.gN - 1 + m) = x[s.gN - 1 - m]? := by
  have haccepted : commandError .reflectPad s = none := commandError_of_ready (by simp) hws (by simp [needsWin]) rfl
  obtain ⟨u, hbody, rfl⟩ := exec_next_of_accepted haccepted h
  obtain ⟨first, last, hfirst, hreadsFirst, hlast, hreadsLast, rfl⟩ := (reflectPadBody_ok_iff _ _ _).1 hbody
  constructor
  · calc (succeed (writePads first last s)).realAt .padded (s.gP - m)
      _ = first.reverse[s.gP - m]? := by
        simpa using writePads_left last hfirst (s.gP - m) (by rw [List.length_reverse]; omega)
      _ = first[m - 1]? := by
        rw [List.getElem?_reverse (by omega)]; congr 1; omega
      _ = x[m]? := getElem?_eq_of_readsAs hreadsFirst hx (by omega) (by omega) (by omega)
  · calc (succeed (writePads first last s)).realAt .padded (s.gP + s.gN - 1 + m)
      _ = last.reverse[m - 1]? := by
        rw [← writePads_right first last s (m - 1) (by rw [List.length_reverse]; omega), realAt_succeed]
        congr 1; omega
      _ = last[s.gP - m]? := by
        rw [List.getElem?_reverse (by omega)]; congr 1; omega
      _ = x[s.gN - 1 - m]? := getElem?_eq_of_readsAs hreadsLast hx (by omega) (by omega) (by omega)

/-! ### The statements -/

/-- The starts of the frames that fit in N + W elements are the multiples of H up to N. -/
theorem frame_fits_iff {f H N : Nat} (W : Nat) (hH : 1 ≤ H) : f < N / H + 1 ↔ f * H + W ≤ N + W := by
  rw [Nat.lt_succ_iff, Nat.le_div_iff_mul_le hH, Nat.add_le_add_iff_right]

/-- Settles O20: with both flags set only the frame check of R402 is left, and L = N + W as W is even. -/
theorem frameCountIsExact : Obligations.FrameCountIsExact := by
  unfold Obligations.FrameCountIsExact
  refine ⟨fun s f hws hwin hg => ?_, by decide⟩
  obtain ⟨⟨heven, -⟩, ⟨hH, -⟩, -, -, hP, hL, hNB, -⟩ := hg.2 hws
  have hLW : s.gL = s.gN + s.gW := by omega
  refine ⟨hNB, frameFwd_accepted_iff f hws hwin, ?_⟩
  rw [hNB, hLW]
  exact frame_fits_iff s.gW hH

/-- Settles O23: LOAD_ROW puts the row in the centre of PADDED, which REFLECT_PAD mirrors. -/
theorem reflectionIsExact : Obligations.ReflectionIsExact := by
  unfold Obligations.ReflectionIsExact
  intro c s u t x _ hws hPN hlen hx hload hreflect m hm hmP
  obtain rfl := loadRow_next hws hlen hx hload
  have hcentre : (succeed (writeReals .padded s.gP x s)).ReadsAs .padded s.gP x := realAt_writeReals _ rfl _ _ _
  exact reflectPad_mirrors (s := succeed (writeReals .padded s.gP x s)) hws hPN hlen hcentre hreflect hm hmP

end Sys2Proof.Proofs.Stft
end

section
/-! Completion (60_exceptions.md R406): what the bodies leave of the error registers, and from it the statement. -/

namespace Sys2Proof.Proofs.Exceptions

open Sys2Proof.Machine Sys2Proof.Proofs.Stft

/-- A write of buffer elements leaves the record of the last failure as it was. -/
theorem writesOnly_keeps_error_record {s u : State} (h : WritesOnly s u) :
    u.errInfo = s.errInfo ∧ u.irqErr = s.irqErr := by
  obtain ⟨hframe, -⟩ := h
  constructor <;> rw [hframe]

/-- No body writes the record of the last failure: only Fail does (R404). WS_INIT and WIN_GEN write more than buffer
elements, so they stand apart. -/
theorem bodyOf_keeps_error_record {i : Instr} {s u : State} (h : bodyOf i s = .ok u) :
    u.errInfo = s.errInfo ∧ u.irqErr = s.irqErr := by
  by_cases hws : i = .wsInit
  · subst hws
    obtain rfl : wsInitBody s = u := Except.ok.inj h
    simp [wsInitBody]
  by_cases hwin : i = .winGen
  · subst hwin
    obtain rfl : winGenBody s = u := Except.ok.inj h
    simp [winGenBody]
  exact writesOnly_keeps_error_record (bodyOf_writesOnly hws hwin h)

/-- Succeed empties the pending command, which clears BUSY (R406, R55). -/
@[simp] theorem busy_succeed (s : State) : (succeed s).busy = false := rfl

/-- Settles O10: an accepted command runs its body, which keeps ERR_INFO and IRQ_STATUS.ERR, and then succeeds. -/
theorem successCompletesOnce : Obligations.SuccessCompletesOnce := by
  unfold Obligations.SuccessCompletesOnce
  intro i s t haccepted h
  obtain ⟨u, hbody, rfl⟩ := exec_next_of_accepted haccepted h
  obtain ⟨hinfo, herr⟩ := bodyOf_keeps_error_record hbody
  exact ⟨succeed_errCode u, succeed_irqDone u, succeed_pending u, busy_succeed u,
    (succeed_errInfo u).trans hinfo, (succeed_irqErr u).trans herr⟩

end Sys2Proof.Proofs.Exceptions
end

section
/-! Encoding (30_encoding.md R170 to R177): the three fields of a word, the decoder as an equality of fields, the rows of the
opcode map by their fields, and from these the statements about decoder, encoder and assembler. -/

namespace Sys2Proof.Proofs.Encoding

open Sys2Proof.Machine

/-! ### The fields of a word -/

/-- A word is its three fields (R170). -/
theorem toNat_eq_fields (v : Word) : v.toNat = fieldOp v + 256 * fieldCh v + 512 * fieldArg v := by
  simp only [fieldOp, fieldCh, fieldArg]
  omega

/-- Words with the same fields are equal. -/
theorem word_ext_fields {v w : Word} (hop : fieldOp v = fieldOp w) (hch : fieldCh v = fieldCh w)
    (harg : fieldArg v = fieldArg w) : v = w := by
  apply BitVec.eq_of_toNat_eq
  rw [toNat_eq_fields v, toNat_eq_fields w, hop, hch, harg]

/-- The operands of a well-formed command fit their fields (R172). -/
theorem fields_fit {i : Instr} (h : i.wellFormed = true) : opcode i < 256 ∧ chField i < 2 ∧ argField i < 2 ^ 23 := by
  cases i <;> simp_all [Instr.wellFormed, channelOk, frameOk, opcode, chField, argField]

/-- A word holds the fields it is put together from, when they fit. -/
theorem fields_ofNat {op ch arg : Nat} (hop : op < 256) (hch : ch < 2) (harg : arg < 2 ^ 23) :
    fieldOp (BitVec.ofNat 32 (op + 256 * ch + 512 * arg)) = op ∧
      fieldCh (BitVec.ofNat 32 (op + 256 * ch + 512 * arg)) = ch ∧
      fieldArg (BitVec.ofNat 32 (op + 256 * ch + 512 * arg)) = arg := by
  simp only [fieldOp, fieldCh, fieldArg, BitVec.toNat_ofNat]
  omega

/-! ### The decoder -/

theorem decodeZ_ok_iff (v : Word) (i j : Instr) :
    decodeZ v i = .ok j ↔ fieldCh v = 0 ∧ fieldArg v = 0 ∧ i = j := by
  unfold decodeZ
  split <;> simp_all

theorem decodeC_ok_iff (v : Word) (mk : Nat → Instr) (j : Instr) :
    decodeC v mk = .ok j ↔ fieldArg v = 0 ∧ mk (fieldCh v) = j := by
  unfold decodeC
  split <;> simp_all

theorem decodeF_ok_iff (v : Word) (mk : Nat → Instr) (j : Instr) :
    decodeF v mk = .ok j ↔ fieldCh v = 0 ∧ mk (fieldArg v) = j := by
  unfold decodeF
  split <;> simp_all

/-- A word decodes to the command whose fields it has (R174). -/
theorem decode_ok_iff (v : Word) (i : Instr) :
    decode v = .ok i ↔ opcode i = fieldOp v ∧ chField i = fieldCh v ∧ argField i = fieldArg v := by
  constructor
  · intro h
    unfold decode at h
    split at h
    case h_16 => cases h
    all_goals
      rename_i hop
      simp only [decodeZ_ok_iff, decodeC_ok_iff, decodeF_ok_iff] at h
      grind [opcode, chField, argField]
  · rintro ⟨hop, hch, harg⟩
    unfold decode
    rw [← hop]
    cases i <;> simp only [opcode, chField, argField] at hch harg ⊢ <;>
      simp [decodeZ_ok_iff, decodeC_ok_iff, decodeF_ok_iff, ← hch, ← harg]

/-- A command that a word decodes to is well-formed: its operands are fields (R172). -/
theorem wellFormed_of_decode {v : Word} {i : Instr} (h : decode v = .ok i) : i.wellFormed = true := by
  obtain ⟨-, hch, harg⟩ := (decode_ok_iff v i).1 h
  have hv := v.isLt
  have hchlt : chField i < 2 := by rw [hch]; exact Nat.mod_lt _ (by decide)
  have harglt : argField i < 2 ^ 23 := by rw [harg]; unfold fieldArg; omega
  cases i <;> simp_all [Instr.wellFormed, channelOk, frameOk, chField, argField]

/-- The word of a well-formed command has the command's fields (R170). -/
theorem fields_encode {i : Instr} (h : i.wellFormed = true) :
    fieldOp (encode i) = opcode i ∧ fieldCh (encode i) = chField i ∧ fieldArg (encode i) = argField i := by
  obtain ⟨hop, hch, harg⟩ := fields_fit h
  exact fields_ofNat hop hch harg

/-- The encoder writes the word a command was decoded from (log 15). -/
theorem encode_of_decode {v : Word} {i : Instr} (h : decode v = .ok i) : encode i = v := by
  obtain ⟨hop, hch, harg⟩ := (decode_ok_iff v i).1 h
  obtain ⟨eop, ech, earg⟩ := fields_encode (wellFormed_of_decode h)
  exact word_ext_fields (eop.trans hop) (ech.trans hch) (earg.trans harg)

/-! ### The opcode map -/

/-- The operand class of a command (R171). -/
def classOf : Instr → OpClass
  | .nop | .wsInit | .winGen | .reflectPad | .stftAll | .accClear | .istftAll => .z
  | .loadRow _ | .specStore _ | .stft _ | .specLoad _ | .rowStore _ | .istft _ => .c
  | .frameFwd _ | .frameInv _ => .f

/-- The row of the opcode map a command belongs to. -/
def rowOfCommand (i : Instr) : OpRow := ⟨mnemonicOf i, classOf i, BitVec.ofNat 32 (opcode i)⟩

theorem rowOfCommand_mem (i : Instr) : rowOfCommand i ∈ opRows := by
  cases i <;> simp [rowOfCommand, mnemonicOf, classOf, opcode, opRows]

/-- The command of a row with given operands, where its class has them. -/
theorem exists_command_of_row {r : OpRow} (hr : r ∈ opRows) (c f : Nat) :
    ∃ i, rowOfCommand i = r ∧ chField i = (if r.cls = .c then c else 0) ∧
      argField i = (if r.cls = .f then f else 0) := by
  simp only [opRows, List.mem_cons, List.not_mem_nil, or_false] at hr
  obtain rfl | rfl | rfl | rfl | rfl | rfl | rfl | rfl | rfl | rfl | rfl | rfl | rfl | rfl | rfl := hr
  exacts [⟨.nop, rfl, rfl, rfl⟩, ⟨.wsInit, rfl, rfl, rfl⟩, ⟨.winGen, rfl, rfl, rfl⟩, ⟨.loadRow c, rfl, rfl, rfl⟩,
    ⟨.reflectPad, rfl, rfl, rfl⟩, ⟨.frameFwd f, rfl, rfl, rfl⟩, ⟨.specStore c, rfl, rfl, rfl⟩,
    ⟨.stft c, rfl, rfl, rfl⟩, ⟨.stftAll, rfl, rfl, rfl⟩, ⟨.specLoad c, rfl, rfl, rfl⟩, ⟨.accClear, rfl, rfl, rfl⟩,
    ⟨.frameInv f, rfl, rfl, rfl⟩, ⟨.rowStore c, rfl, rfl, rfl⟩, ⟨.istft c, rfl, rfl, rfl⟩,
    ⟨.istftAll, rfl, rfl, rfl⟩]

/-- The fields a class does not use are zero in a word (R171). -/
def unusedFieldsZero (v : Word) : OpClass → Prop
  | .z => fieldCh v = 0 ∧ fieldArg v = 0
  | .c => fieldArg v = 0
  | .f => fieldCh v = 0

/-- The mask of class C clears the CH bit alone. -/
theorem toNat_and_maskC (v : Word) : (v &&& OpClass.c.mask).toNat = fieldOp v + 512 * fieldArg v := by
  have hsplit : (v &&& 0xFFFFFEFF#32) + (v &&& 0x100#32) = v := by
    rw [BitVec.add_eq_or_of_and_eq_zero, ← BitVec.and_or_distrib_left]
    · exact BitVec.and_allOnes
    · have hdisj : 0xFFFFFEFF#32 &&& 0x100#32 = 0#32 := by decide
      rw [BitVec.and_assoc, ← BitVec.and_assoc _ v, BitVec.and_comm _ v, BitVec.and_assoc v _ _, hdisj]
      simp
  have hbit : (v &&& 0x100#32).toNat = 256 * fieldCh v := by
    rw [BitVec.toNat_and, Nat.and_comm]
    refine (Nat.two_pow_and v.toNat 8).trans ?_
    rw [Nat.testBit_eq_decide_div_mod_eq]
    obtain h | h := Nat.mod_two_eq_zero_or_one (v.toNat / 256) <;> simp [fieldCh, h]
  have hsum := congrArg BitVec.toNat hsplit
  rw [BitVec.toNat_add, hbit] at hsum
  have hfields := toNat_eq_fields v
  have := v.isLt
  have := (v &&& 0xFFFFFEFF#32).isLt
  simp only [OpClass.mask]
  omega

/-- A row whose pattern is an opcode covers exactly the words with that opcode and zeros in the unused fields (R174). -/
theorem covers_iff {r : OpRow} (hr : r.pattern.toNat < 256) (v : Word) :
    r.covers v = true ↔ fieldOp v = r.pattern.toNat ∧ unusedFieldsZero v r.cls := by
  have hv := toNat_eq_fields v
  have hop : fieldOp v < 256 := Nat.mod_lt _ (by decide)
  have hch : fieldCh v < 2 := Nat.mod_lt _ (by decide)
  unfold OpRow.covers
  rw [beq_iff_eq, ← BitVec.toNat_inj]
  cases hcls : r.cls with
  | z =>
    rw [show OpClass.z.mask = BitVec.allOnes 32 from rfl, BitVec.and_allOnes]
    simp only [unusedFieldsZero]
    omega
  | c =>
    rw [toNat_and_maskC]
    simp only [unusedFieldsZero]
    omega
  | f =>
    rw [BitVec.toNat_and, show OpClass.f.mask.toNat = 2 ^ 9 - 1 from rfl, Nat.and_two_pow_sub_one_eq_mod]
    simp only [unusedFieldsZero]
    omega

theorem rowOfCommand_pattern (i : Instr) : (rowOfCommand i).pattern.toNat = opcode i := by
  cases i <;> rfl

/-- Every row is some command's, so its pattern is an opcode. -/
theorem pattern_lt {r : OpRow} (hr : r ∈ opRows) : r.pattern.toNat < 256 := by
  obtain ⟨i, rfl, -⟩ := exists_command_of_row hr 0 0
  rw [rowOfCommand_pattern]
  cases i <;> simp [opcode]

/-- A command's own class leaves its unused fields zero. -/
theorem unusedFieldsZero_classOf {v : Word} {i : Instr} (hch : chField i = fieldCh v) (harg : argField i = fieldArg v) :
    unusedFieldsZero v (classOf i) := by
  cases i <;> simp_all [classOf, unusedFieldsZero, chField, argField]

/-- The rows are told apart by their opcodes (R173). -/
theorem opRows_pattern_injective : ∀ r ∈ opRows, ∀ q ∈ opRows, r.pattern.toNat = q.pattern.toNat → r = q := by
  decide

/-! ### The statements about words -/

/-- Settles O1: the encoder puts each operand in its field, and the decoder reads the fields back. -/
theorem decodeInvertsEncode : Obligations.DecodeInvertsEncode := by
  unfold Obligations.DecodeInvertsEncode
  intro i hwf
  obtain ⟨hop, hch, harg⟩ := fields_encode hwf
  exact (decode_ok_iff _ _).2 ⟨hop.symm, hch.symm, harg.symm⟩

/-- Settles O2: a decoded command has the fields of its word, and so does the encoding. -/
theorem encodeInvertsDecode : Obligations.EncodeInvertsDecode := by
  unfold Obligations.EncodeInvertsDecode
  exact fun v i h => ⟨wellFormed_of_decode h, encode_of_decode h⟩

/-- Settles O3: a row covers a word by its opcode and its unused fields, which is what the decoder asks. -/
theorem decodeFollowsOpcodeMap : Obligations.DecodeFollowsOpcodeMap := by
  unfold Obligations.DecodeFollowsOpcodeMap
  refine fun v => ⟨fun i h => ?_, fun r hr hcov => ?_, fun r hr q hq hr' hq' => ?_⟩
  · obtain ⟨hop, hch, harg⟩ := (decode_ok_iff v i).1 h
    have hmem := rowOfCommand_mem i
    refine ⟨rowOfCommand i, hmem, (covers_iff (pattern_lt hmem) v).2 ⟨?_, unusedFieldsZero_classOf hch harg⟩, rfl,
      fun _ => ?_, fun _ => ?_⟩
    · rw [rowOfCommand_pattern, hop]
    · simp [hch, fieldCh, BitVec.extractLsb'_toNat, Nat.shiftRight_eq_div_pow]
    · have hv := v.isLt
      simp only [harg, fieldArg, BitVec.extractLsb'_toNat, Nat.shiftRight_eq_div_pow]
      omega
  · obtain ⟨hop, hzero⟩ := (covers_iff (pattern_lt hr) v).1 hcov
    obtain ⟨i, rfl, hch, harg⟩ := exists_command_of_row hr (fieldCh v) (fieldArg v)
    refine ⟨i, (decode_ok_iff v i).2 ⟨by rw [← rowOfCommand_pattern, hop], ?_, ?_⟩⟩
    · rw [hch]; revert hzero
      cases (rowOfCommand i).cls <;> simp +contextual [unusedFieldsZero]
    · rw [harg]; revert hzero
      cases (rowOfCommand i).cls <;> simp +contextual [unusedFieldsZero]
  · obtain ⟨hopr, -⟩ := (covers_iff (pattern_lt hr) v).1 hr'
    obtain ⟨hopq, -⟩ := (covers_iff (pattern_lt hq) v).1 hq'
    exact opRows_pattern_injective r hr q hq (hopr.symm.trans hopq)

/-- Settles O4: each word is decoded by evaluation. -/
theorem encodingExamplesDecode : Obligations.EncodingExamplesDecode := by
  unfold Obligations.EncodingExamplesDecode
  decide

/-! ### The assembler -/

/-- A mnemonic finds its command's row. -/
theorem rowOf_mnemonicOf (i : Instr) : rowOf (mnemonicOf i).toList = some (rowOfCommand i) := by
  have hrows : ∀ r ∈ opRows, rowOf r.mnemonic.toList = some r := by decide
  exact hrows _ (rowOfCommand_mem i)

/-- A command's mnemonic is not the directive. -/
theorem mnemonicOf_ne_word (i : Instr) : (mnemonicOf i).toList ≠ ".word".toList := by
  have hrows : ∀ r ∈ opRows, r.mnemonic.toList ≠ ".word".toList := by decide
  exact hrows _ (rowOfCommand_mem i)

/-- A line with a command's mnemonic is assembled by the command's row. -/
theorem assemble_mnemonicOf (i : Instr) (ops : List (List Char)) :
    assemble (mnemonicOf i).toList ops = assembleRow (rowOfCommand i) ops := by
  unfold assemble
  rw [if_neg (mnemonicOf_ne_word i), rowOf_mnemonicOf]

/-- A line that names no command is refused. -/
theorem rowOf_eq_none {m : List Char} (h : ∀ i, m ≠ (mnemonicOf i).toList) : rowOf m = none := by
  unfold rowOf
  rw [List.find?_eq_none]
  intro r hr
  obtain ⟨i, rfl, -⟩ := exists_command_of_row hr 0 0
  simpa [rowOfCommand, eq_comm] using h i

/-- Class Z takes no operand. -/
theorem assembleRow_z {r : OpRow} (h : r.cls = .z) :
    assembleRow r [] = some r.pattern ∧ ∀ x xs, assembleRow r (x :: xs) = none := by
  simp [assembleRow, h]

/-- Class C takes one operand, which spells a channel. -/
theorem assembleRow_c {r : OpRow} (h : r.cls = .c) :
    assembleRow r [] = none ∧ (∀ x y xs, assembleRow r (x :: y :: xs) = none) ∧
      ∀ x, assembleRow r [x] = (channelOperand x).map fun c => BitVec.ofNat 32 (r.pattern.toNat + 256 * c) := by
  refine ⟨by simp [assembleRow, h], by simp [assembleRow, h], fun x => ?_⟩
  cases hx : channelOperand x <;> simp [assembleRow, h, hx]

/-- Class F takes one operand, a numeral below 2^23. -/
theorem assembleRow_f {r : OpRow} (h : r.cls = .f) :
    assembleRow r [] = none ∧ (∀ x y xs, assembleRow r (x :: y :: xs) = none) ∧
      (∀ x, numeral x = none → assembleRow r [x] = none) ∧
      ∀ x f, numeral x = some f → assembleRow r [x] =
        if f < 2 ^ 23 then some (BitVec.ofNat 32 (r.pattern.toNat + 512 * f)) else none := by
  refine ⟨by simp [assembleRow, h], by simp [assembleRow, h], fun x hx => ?_, fun x f hx => ?_⟩ <;>
    simp [assembleRow, h, hx]

/-- The encoder's word of a command is its row's pattern with the operand fields added (R170). -/
theorem encode_eq_pattern (i : Instr) :
    encode i = BitVec.ofNat 32 ((rowOfCommand i).pattern.toNat + 256 * chField i + 512 * argField i) := by
  rw [rowOfCommand_pattern]
  rfl

/-- Only the digits 0 and 1 spell a channel. -/
theorem channelOperand_eq_none {x : List Char} (h0 : x ≠ ['0']) (h1 : x ≠ ['1']) : channelOperand x = none := by
  unfold channelOperand
  split <;> simp_all

/-- Settles O5: the operands a row takes follow from its class alone. -/
theorem assemblerAgreesWithEncoder : Obligations.AssemblerAgreesWithEncoder := by
  unfold Obligations.AssemblerAgreesWithEncoder
  refine ⟨fun i hi => ?_, fun c hc i hi => ?_, fun f i hi => ?_, ⟨fun ds v hds hv => ?_, fun x hx => ?_, ?_, ?_⟩,
    fun m ops hm hi => ?_⟩
  · have hz : (rowOfCommand i).cls = .z ∧ chField i = 0 ∧ argField i = 0 := by
      revert hi; cases i <;> simp [rowOfCommand, classOf, chField, argField]
    obtain ⟨hcls, hch, harg⟩ := hz
    obtain ⟨hnone, hextra⟩ := assembleRow_z hcls
    refine ⟨?_, fun x xs => by rw [assemble_mnemonicOf, hextra]⟩
    rw [assemble_mnemonicOf, hnone, encode_eq_pattern, hch, harg]
    simp
  · have hfields : (rowOfCommand i).cls = .c ∧ chField i = c ∧ argField i = 0 := by
      revert hi; cases i <;> simp +contextual [rowOfCommand, classOf, chField, argField]
    obtain ⟨hcls, hch, harg⟩ := hfields
    obtain ⟨hnone, hextra, hone⟩ := assembleRow_c hcls
    simp only [assemble_mnemonicOf, hnone, hextra, hone, implies_true, and_true, true_and]
    refine ⟨?_, fun x h0 h1 => by simp [channelOperand_eq_none h0 h1]⟩
    obtain rfl | rfl : c = 0 ∨ c = 1 := by omega
    all_goals simp [channelOperand, encode_eq_pattern, hch, harg]
  · have hfields : (rowOfCommand i).cls = .f ∧ chField i = 0 ∧ argField i = f := by
      revert hi; cases i <;> simp +contextual [rowOfCommand, classOf, chField, argField]
    obtain ⟨hcls, hch, harg⟩ := hfields
    obtain ⟨hnone, hextra, hbad, hone⟩ := assembleRow_f hcls
    simp only [assemble_mnemonicOf]
    refine ⟨fun x hx => ?_, hbad, hnone, hextra⟩
    rw [hone x f hx, encode_eq_pattern, hch, harg, Nat.mul_zero, Nat.add_zero]
  · simp [assemble, wordOperand, hds, hv]
  · simp [assemble, hx]
  · simp [assemble]
  · simp [assemble]
  · unfold assemble
    rw [if_neg hm, rowOf_eq_none hi]

end Sys2Proof.Proofs.Encoding
end

section
/-! The Host port (10_state.md R51 to R69, 20_memory.md R121 to R137): when a transaction is a bus error, what an accepted
one does in the CSR file and in the windows, and from these the statements about the port. -/

namespace Sys2Proof.Proofs.HostPort

open Sys2Proof.Machine

/-! ### Regions -/

/-- The buffer of a region, and no other, has that region (R121). -/
theorem bufferOfRegion_eq_some_iff (n : Nat) (b : Buffer) : bufferOfRegion n = some b ↔ b.region = n := by
  constructor
  · intro h
    unfold bufferOfRegion at h
    split at h <;> simp_all [Buffer.region] <;> subst h <;> rfl
  · rintro rfl
    cases b <;> rfl

/-- The reserved regions are those from 0xB on (R121). -/
theorem bufferOfRegion_eq_none_iff {n : Nat} (hn : n ≠ 0) : bufferOfRegion n = none ↔ 0xB ≤ n := by
  unfold bufferOfRegion
  split <;> simp_all
  omega

/-- The Host may write the buffers of the regions 1 and 2 (R131). -/
theorem hostWritable_eq_false_iff (b : Buffer) : b.hostWritable = false ↔ 3 ≤ b.region := by
  cases b <;> simp [Buffer.hostWritable, Buffer.region]

theorem region_bounds (b : Buffer) : 1 ≤ b.region ∧ b.region ≤ 0xA := by
  cases b <;> simp [Buffer.region]

/-- No address of a buffer's window lies in the CSR region. -/
theorem regionOf_window (b : Buffer) {off : Nat} (h : off < 2 ^ 28) :
    regionOf (b.base + off) = b.region ∧ offsetOf (b.base + off) = off := by
  simp only [regionOf, offsetOf, Buffer.base]
  omega

theorem addr_lt (r : BusReq) : r.addr < 2 ^ 32 := by
  cases r <;> exact BitVec.isLt _

/-! ### Bus errors -/

/-- The bus errors of a window (R123, R131, R132). -/
theorem bufferError_iff (b : Buffer) (off : Nat) (w : Bool) (s : State) :
    bufferError b off w s = true ↔
      s.wsValid = false ∨ b.len s * b.elemSize ≤ off ∨ s.pending.isSome = true ∨ (w = true ∧ 3 ≤ b.region) := by
  simp [bufferError, State.busy, ← hostWritable_eq_false_iff, or_assoc]

/-- The bus errors of the CSR region (R60, R122, R466). -/
theorem csrError_iff (off : Nat) (w : Bool) (s : State) :
    csrError off w s = true ↔ 0x1000 ≤ off ∨ (w = true ∧ off = 0x20 ∧ s.pending.isSome = true) := by
  simp [csrError, State.busy, and_assoc]

/-- The conditions of R130, in its order. -/
def BadRequest (r : BusReq) (s : State) : Prop :=
  r.bytes ≠ 4 ∨ r.addr % 4 ≠ 0 ∨ 0xB0000000 ≤ r.addr ∨
    (r.addr < 0x10000000 ∧
      (0x1000 ≤ r.addr ∨ (r.isWrite = true ∧ r.addr = 0x20 ∧ s.pending.isSome = true))) ∨
    (0x10000000 ≤ r.addr ∧
      (s.wsValid = false ∨ s.pending.isSome = true ∨ (r.isWrite = true ∧ 0x30000000 ≤ r.addr) ∨
        ∃ b : Buffer, b.region = r.addr / 0x10000000 ∧ b.len s * b.elemSize ≤ r.addr % 0x10000000))

/-- A transaction is a bus error exactly under the conditions of R130. -/
theorem busError_iff (r : BusReq) (s : State) : busError r s = true ↔ BadRequest r s := by
  have haddr := addr_lt r
  unfold busError BadRequest
  rw [Bool.or_eq_true, Bool.or_eq_true, decide_eq_true_eq, decide_eq_true_eq, or_assoc]
  refine or_congr Iff.rfl (or_congr Iff.rfl ?_)
  by_cases hcsr : regionOf r.addr = 0
  · rw [if_pos hcsr, csrError_iff]
    have hlow : r.addr < 0x10000000 := by simp only [regionOf] at hcsr; omega
    have hoff : offsetOf r.addr = r.addr := Nat.mod_eq_of_lt hlow
    rw [hoff]
    constructor
    · exact fun h => .inr (.inl ⟨hlow, h⟩)
    · rintro (h | ⟨-, h⟩ | ⟨h, -⟩)
      · omega
      · exact h
      · omega
  · rw [if_neg hcsr]
    cases hb : bufferOfRegion (regionOf r.addr) with
    | none =>
      have := (bufferOfRegion_eq_none_iff hcsr).1 hb
      simp only [regionOf] at this
      simp only [true_iff]
      left; omega
    | some b =>
      have hregion := (bufferOfRegion_eq_some_iff _ _).1 hb
      have hbounds := region_bounds b
      have hlen : (∃ b' : Buffer, b'.region = r.addr / 0x10000000 ∧ b'.len s * b'.elemSize ≤ r.addr % 0x10000000) ↔
          b.len s * b.elemSize ≤ offsetOf r.addr :=
        ⟨fun ⟨b', hb', h⟩ => region_injective (hb'.trans hregion.symm) ▸ h, fun h => ⟨b, hregion, h⟩⟩
      rw [hlen]
      simp only
      rw [bufferError_iff]
      simp only [regionOf, offsetOf] at *
      constructor
      · intro h
        right; right
        refine ⟨by omega, ?_⟩
        rcases h with h | h | h | ⟨hw, h⟩
        · exact .inl h
        · exact .inr (.inr (.inr h))
        · exact .inr (.inl h)
        · exact .inr (.inr (.inl ⟨hw, by omega⟩))
      · rintro (h | ⟨h, -⟩ | ⟨-, h | h | ⟨hw, h⟩ | h⟩)
        · omega
        · omega
        · exact .inl h
        · exact .inr (.inr (.inl h))
        · exact .inr (.inr (.inr ⟨hw, by omega⟩))
        · exact .inr (.inl h)

/-- A read is answered without error, or with a draw (R134, R82). -/
theorem acceptRead_frame (a : Nat) (s : State) :
    ∃ v n, acceptRead a s = { s with response := some ⟨false, v⟩, draws := n } := by
  unfold acceptRead readWindow
  split
  · exact ⟨_, _, rfl⟩
  · split <;> exact ⟨_, _, rfl⟩

/-- A write is answered without error and with data 0 (log 13). -/
theorem acceptWrite_response (a : Nat) (v : Word) (s : State) :
    (acceptWrite a v s).response = some ⟨false, 0x00000000#32⟩ := by
  unfold acceptWrite
  split <;> rfl

/-- Settles O52: R130's conditions are the model's, and an accepted transaction is answered without error. -/
theorem busErrorsAreExactlyR130 : Obligations.BusErrorsAreExactlyR130 := by
  unfold Obligations.BusErrorsAreExactlyR130
  intro r s bad
  have hbad : busError r s = true ↔ bad := busError_iff r s
  obtain ⟨herr, hr⟩ | ⟨hok, ⟨a, n, -, hr⟩ | ⟨a, n, v, -, hr⟩⟩ := transact_cases r s
  · exact ⟨fun _ => hr, fun h => absurd (hbad.1 herr) h⟩
  · refine ⟨fun h => absurd (hbad.2 h) (by simp [hok]), fun _ => ?_⟩
    obtain ⟨w, m, h⟩ := acceptRead_frame a.toNat s
    exact ⟨w, by rw [hr, h]⟩
  · refine ⟨fun h => absurd (hbad.2 h) (by simp [hok]), fun _ => ?_⟩
    exact ⟨0#32, by rw [hr, acceptWrite_response]⟩

/-- Settles O53: an error, a CSR read and a window read change the response and the draws alone. -/
theorem readsHaveNoSideEffect : Obligations.ReadsHaveNoSideEffect := by
  unfold Obligations.ReadsHaveNoSideEffect
  intro a n s
  obtain ⟨-, h⟩ | ⟨-, ⟨a', n', -, h⟩ | ⟨a', n', v, hr, -⟩⟩ := transact_cases (.read a n) s
  · rw [h]; rfl
  · obtain ⟨v, m, hframe⟩ := acceptRead_frame a'.toNat s
    rw [h, hframe]
  · cases hr

/-! ### The CSR file -/

/-- A CSR offset as an address of the port. -/
theorem csr_address {off : Nat} (h : off < 0x1000) :
    (BitVec.ofNat 32 off).toNat = off ∧ regionOf off = 0 ∧ offsetOf off = off := by
  simp only [BitVec.toNat_ofNat, regionOf, offsetOf]
  omega

/-- An accepted read of a CSR answers its value and changes nothing else (R51, R134). -/
theorem transact_read_csr {off : Nat} (h : off < 0x1000) (h4 : off % 4 = 0) (s : State) :
    transact (.read (BitVec.ofNat 32 off) 4) s = respond (csrRead off s) s := by
  obtain ⟨haddr, hregion, hoff⟩ := csr_address h
  have hok : busError (.read (BitVec.ofNat 32 off) 4) s = false := by
    rw [Bool.eq_false_iff, ne_eq, busError_iff]
    simp only [BadRequest, BusReq.bytes, BusReq.addr, BusReq.isWrite, haddr]
    rintro (h | h | h | ⟨-, h | ⟨h, -⟩⟩ | ⟨h, -⟩)
    · exact h rfl
    · exact h h4
    · omega
    · omega
    · cases h
    · omega
  simp [transact, hok, acceptRead, Nat.mod_eq_of_lt (show off < 4294967296 by omega), hregion, hoff]

/-- An accepted write of a CSR stores it and is answered with data 0 (R51; log 13); only a CMD write can be refused (R60). -/
theorem transact_write_csr {off : Nat} (h : off < 0x1000) (h4 : off % 4 = 0) (v : Word) {s : State}
    (hcmd : off = 0x20 → s.pending = none) :
    transact (.write (BitVec.ofNat 32 off) 4 v) s = respond 0x00000000#32 (csrWrite off v s) := by
  obtain ⟨haddr, hregion, hoff⟩ := csr_address h
  have hok : busError (.write (BitVec.ofNat 32 off) 4 v) s = false := by
    rw [Bool.eq_false_iff, ne_eq, busError_iff]
    simp only [BadRequest, BusReq.bytes, BusReq.addr, BusReq.isWrite, haddr]
    rintro (h | h | h | ⟨-, h | ⟨-, h, hp⟩⟩ | ⟨h, -⟩)
    · exact h rfl
    · exact h h4
    · omega
    · omega
    · simp [hcmd h] at hp
    · omega
  simp [transact, hok, acceptWrite, Nat.mod_eq_of_lt (show off < 4294967296 by omega), hregion, hoff]

/-- A CMD write while busy is refused (R60, R466). -/
theorem transact_cmd_busy (v : Word) {s : State} (hp : s.pending.isSome = true) :
    transact (.write 0x00000020#32 4 v) s = respondError s := by
  have herr : busError (.write 0x00000020#32 4 v) s = true :=
    (busError_iff _ _).2 (.inr (.inr (.inr (.inl ⟨(by decide : 32 < 0x10000000), .inr ⟨rfl, rfl, hp⟩⟩))))
  simp [transact, herr]

/-- Settles O56: the idle write is accepted as a CSR write, the busy one refused. -/
theorem cmdWriteIsAcceptedWhenIdle : Obligations.CmdWriteIsAcceptedWhenIdle := by
  unfold Obligations.CmdWriteIsAcceptedWhenIdle
  intro v s
  exact ⟨fun hp => transact_write_csr (by decide) (by decide) v fun _ => hp, transact_cmd_busy v⟩

/-- Settles O57: both writes are CSR writes; clearing a flag is the conditional of its bit. -/
theorem irqStatusIsWriteOneToClear : Obligations.IrqStatusIsWriteOneToClear := by
  unfold Obligations.IrqStatusIsWriteOneToClear
  intro v s
  refine ⟨?_, transact_write_csr (off := 0x14) (by decide) (by decide) v (fun h => absurd h (by decide))⟩
  have hclear : ∀ flag bit : Bool, (flag && !bit) = if bit = true then false else flag := by decide
  rw [transact_write_csr (off := 0x10) (by decide) (by decide) v (fun h => absurd h (by decide)), ← hclear, ← hclear]
  rfl

/-! ### The registers as words -/

theorem getLsbD_ofNat_low (n k : Nat) (hk : k < 32) : (BitVec.ofNat 32 n).getLsbD k = decide (n / 2 ^ k % 2 = 1) := by
  rw [BitVec.getLsbD_ofNat, Nat.testBit_eq_decide_div_mod_eq]
  simp [hk]

theorem extractLsb'_ofNat (n start len : Nat) :
    ((BitVec.ofNat 32 n).extractLsb' start len).toNat = n % 2 ^ 32 / 2 ^ start % 2 ^ len := by
  rw [BitVec.extractLsb'_toNat, BitVec.toNat_ofNat, Nat.shiftRight_eq_div_pow]

theorem bitOf_lt (b : Bool) : bitOf b < 2 := by cases b <;> decide

theorem decide_bitOf (b : Bool) : decide (bitOf b = 1) = b := by cases b <;> decide

/-- The fields of the STATUS word (R55). -/
theorem status_fields (s : State) :
    s.status.getLsbD 0 = s.pending.isSome ∧ s.status.getLsbD 1 = s.wsValid ∧ s.status.getLsbD 2 = s.winValid ∧
      s.status.extractLsb' 3 5 = 0#5 ∧ s.status.extractLsb' 8 8 = s.lastOp ∧ s.status.extractLsb' 16 16 = 0#16 := by
  have hbusy := bitOf_lt s.busy
  have hws := bitOf_lt s.wsValid
  have hwin := bitOf_lt s.winValid
  have hop := s.lastOp.isLt
  unfold State.status
  refine ⟨?_, ?_, ?_, BitVec.eq_of_toNat_eq ?_, BitVec.eq_of_toNat_eq ?_, BitVec.eq_of_toNat_eq ?_⟩
  · refine (getLsbD_ofNat_low _ _ (by decide)).trans (.trans ?_ (decide_bitOf s.busy))
    congr 2; omega
  · refine (getLsbD_ofNat_low _ _ (by decide)).trans (.trans ?_ (decide_bitOf s.wsValid))
    congr 2; omega
  · refine (getLsbD_ofNat_low _ _ (by decide)).trans (.trans ?_ (decide_bitOf s.winValid))
    congr 2; omega
  · rw [extractLsb'_ofNat]; simp; omega
  · rw [extractLsb'_ofNat]; omega
  · rw [extractLsb'_ofNat]; simp; omega

/-- The fields of a word of two flags: those of IRQ_STATUS and IRQ_EN (R56, R57). -/
theorem flagWord_fields (p q : Bool) :
    (BitVec.ofNat 32 (bitOf p + 2 * bitOf q)).getLsbD 0 = p ∧ (BitVec.ofNat 32 (bitOf p + 2 * bitOf q)).getLsbD 1 = q ∧
      (BitVec.ofNat 32 (bitOf p + 2 * bitOf q)).extractLsb' 2 30 = 0#30 := by
  cases p <;> cases q <;> decide

/-- The fields of the ERR_CODE word (R58). -/
theorem errCode_fields (c : BitVec 8) :
    (BitVec.ofNat 32 c.toNat).extractLsb' 0 8 = c ∧ (BitVec.ofNat 32 c.toNat).extractLsb' 8 24 = 0#24 := by
  have hc := c.isLt
  refine ⟨BitVec.eq_of_toNat_eq ?_, BitVec.eq_of_toNat_eq ?_⟩
  · rw [extractLsb'_ofNat]; omega
  · rw [extractLsb'_ofNat]; simp; omega

/-- A write outside the writable offsets is ignored (R69). -/
theorem csrWrite_ignored {off : Nat} (h : off ∉ [0x008, 0x010, 0x014, 0x020, 0x030, 0x034, 0x038, 0x03C]) (v : Word)
    (s : State) : csrWrite off v s = s := by
  unfold csrWrite
  split <;> simp_all

/-- A reserved offset reads 0, and so do CTRL and CMD (R54, R60, R69). -/
theorem csrRead_reserved {off : Nat} (h : off ∉ [0x000, 0x004, 0x00C, 0x010, 0x014, 0x018, 0x01C, 0x030, 0x034, 0x038,
    0x03C, 0x040, 0x044, 0x048, 0x04C, 0x050, 0x054, 0x058, 0x05C, 0x060, 0x064, 0x070, 0x074, 0x078]) (s : State) :
    csrRead off s = 0x00000000#32 := by
  unfold csrRead
  split <;> simp_all

/-- The response to a read of a CSR. -/
theorem response_read_csr {off : Nat} (h : off < 0x1000) (h4 : off % 4 = 0) (s : State) :
    (transact (.read (BitVec.ofNat 32 off) 4) s).response = some ⟨false, csrRead off s⟩ := by
  rw [transact_read_csr h h4]
  rfl

/-- Settles O58: each CSR access is accepted; the words' fields are the registers. -/
theorem csrReadsShowTheRegisters : Obligations.CsrReadsShowTheRegisters := by
  unfold Obligations.CsrReadsShowTheRegisters
  refine ⟨fun s => ⟨⟨_, response_read_csr (by decide) (by decide) s, status_fields s⟩,
    ⟨_, response_read_csr (by decide) (by decide) s, flagWord_fields s.irqDone s.irqErr⟩,
    ⟨_, response_read_csr (by decide) (by decide) s, flagWord_fields s.doneEn s.errEn⟩,
    ⟨_, response_read_csr (by decide) (by decide) s, errCode_fields s.errCode⟩, fun q hq => ?_⟩,
    fun off v s hoff h4 => ⟨fun h => ?_, fun h => ?_⟩⟩
  · have hcsr : q.1 < 0x1000 ∧ q.1 % 4 = 0 ∧ csrRead q.1 s = q.2 := by
      revert q
      simp [csrRead]
    obtain ⟨hlt, h4, hval⟩ := hcsr
    rw [transact_read_csr hlt h4, hval]
    rfl
  · rw [transact_write_csr hoff h4 v (by rintro rfl; simp at h), csrWrite_ignored h]
    rfl
  · rw [transact_read_csr hoff h4, csrRead_reserved h]
    rfl

/-- Settles O59: both resets are `resetHardware`, and the reset state's registers are read off. -/
theorem resetLeavesTheResetState : Obligations.ResetLeavesTheResetState := by
  unfold Obligations.ResetLeavesTheResetState
  refine ⟨fun v s hv => ?_, fun s ts hts => ?_, fun b ts n a r hr => ?_⟩
  · rw [transact_write_csr (off := 0x8) (by decide) (by decide) v (fun h => absurd h (by decide))]
    simp [csrWrite, writeCtrl, hv, resetHardware, respond]
  · simp [step, hts, takeTurn, resetHardware]
  · subst hr
    refine ⟨rfl, rfl, fun _ => rfl, ?_⟩
    simp [csrRead, State.resetOf, State.status, State.irqStatus, State.irqEn, State.busy, bitOf]

/-! ### The windows -/

/-- An address of a buffer's window, as the port sees it. -/
theorem window_address (b : Buffer) {off : Nat} (h : off < 2 ^ 28) :
    (BitVec.ofNat 32 (b.base + off)).toNat = b.base + off := by
  have := region_bounds b
  simp only [BitVec.toNat_ofNat, Buffer.base]
  omega

/-- While idle a word inside a latched buffer may be read, and written where the Host may write (R123, R131, R132). -/
theorem busError_window {b : Buffer} {off : Nat} {s : State} {r : BusReq} (hbytes : r.bytes = 4)
    (haddr : r.addr = b.base + off) (hwrite : r.isWrite = true → b.hostWritable = true) (hv : s.wsValid = true)
    (hp : s.pending = none) (h4 : off % 4 = 0) (hlen : off < b.len s * b.elemSize) (hoff : off < 2 ^ 28) :
    busError r s = false := by
  have hregion := region_bounds b
  obtain ⟨hreg, hmod⟩ := regionOf_window b hoff
  simp only [regionOf, offsetOf] at hreg hmod
  rw [Bool.eq_false_iff, ne_eq, busError_iff]
  unfold BadRequest
  rw [haddr]
  rintro (h | h | h | ⟨h, -⟩ | ⟨-, h | h | ⟨hw, h⟩ | ⟨b', hb', h⟩⟩)
  · exact h hbytes
  · simp only [Buffer.base] at h; omega
  · omega
  · omega
  · simp [hv] at h
  · simp [hp] at h
  · have := (hostWritable_eq_false_iff b).2 (by omega)
    simp [hwrite hw] at this
  · obtain rfl := region_injective (hb'.trans hreg)
    omega

/-- A read of an idle window answers the word there (R137). -/
theorem response_read_window {b : Buffer} {off : Nat} {v : Word} {s : State} (hv : s.wsValid = true)
    (hp : s.pending = none) (h4 : off % 4 = 0) (hlen : off < b.len s * b.elemSize) (hoff : off < 2 ^ 28)
    (hword : s.mem.word (b.base + off) = some v) :
    (transact (.read (BitVec.ofNat 32 (b.base + off)) 4) s).response = some ⟨false, v⟩ := by
  have haddr := window_address b hoff
  have hok : busError (.read (BitVec.ofNat 32 (b.base + off)) 4) s = false :=
    busError_window rfl haddr (by simp [BusReq.isWrite]) hv hp h4 hlen hoff
  have hregion := region_bounds b
  have hcsr : regionOf (b.base + off) ≠ 0 := by rw [(regionOf_window b hoff).1]; omega
  simp [transact, hok, acceptRead, -BitVec.toNat_ofNat, haddr, hcsr, readWindow, hword]

/-- A write to an idle window stores the word (R128, R131). -/
theorem transact_write_window {b : Buffer} {off : Nat} (v : Word) {s : State} (hwrite : b.hostWritable = true)
    (hv : s.wsValid = true) (hp : s.pending = none) (h4 : off % 4 = 0) (hlen : off < b.len s * b.elemSize)
    (hoff : off < 2 ^ 28) :
    transact (.write (BitVec.ofNat 32 (b.base + off)) 4 v) s =
      respond 0x00000000#32 { s with mem := s.mem.writeWords (b.base + off) [v] } := by
  have haddr := window_address b hoff
  have hok : busError (.write (BitVec.ofNat 32 (b.base + off)) 4 v) s = false :=
    busError_window rfl haddr (fun _ => hwrite) hv hp h4 hlen hoff
  have hregion := region_bounds b
  have hcsr : regionOf (b.base + off) ≠ 0 := by rw [(regionOf_window b hoff).1]; omega
  simp [transact, hok, acceptWrite, -BitVec.toNat_ofNat, haddr, hcsr]

/-- Settles O54: the write is accepted, its word reads back and its bytes are the word's. -/
theorem hostWritesReadBack : Obligations.HostWritesReadBack := by
  unfold Obligations.HostWritesReadBack
  intro b off v s hb hv hp h4 hlen hoff
  have hwrite : b.hostWritable = true := by rcases hb with rfl | rfl <;> rfl
  refine ⟨_, transact_write_window v hwrite hv hp h4 hlen hoff, rfl, ?_, fun j hj => ?_, fun a ha => ?_, rfl⟩
  · refine response_read_window (s := respond _ _) hv hp h4 hlen hoff ?_
    simpa using word_writeWords s.mem (b.base + off) [v] 0 (by simp)
  · have := byte_writeWords s.mem (b.base + off) [v] 0 j (by simp) hj
    rw [byteAt_eq, respond_mem]
    simp only [Nat.mul_zero, Nat.add_zero] at this
    rw [this]
    obtain rfl | rfl | rfl | rfl : j = 0 ∨ j = 1 ∨ j = 2 ∨ j = 3 := by omega
    all_goals rfl
  · exact byte_writeWords_of_not s.mem (b.base + off) [v] a (by simpa using ha)

/-- A complex element holds the words of its two parts (R123). -/
theorem complexAt_eq_some_iff (s : State) (b : Buffer) (e : Nat) (re im : Word) :
    s.complexAt b e = some (re, im) ↔ s.mem.word (b.addr e) = some re ∧ s.mem.word (b.addr e + 4) = some im := by
  unfold State.complexAt
  cases s.mem.word (b.addr e) <;> cases s.mem.word (b.addr e + 4) <;> simp

/-- With a legal geometry an active element of a real buffer is read at its address. -/
theorem response_read_real {b : Buffer} (hb : b.elemSize = 4) {s : State} {e a : Nat} {v : Word} (hv : s.wsValid = true)
    (hg : s.GeometryLegal) (hp : s.pending = none) (he : e < b.len s) (hval : s.realAt b e = some v)
    (ha : a = b.base + 4 * e) : (transact (.read (BitVec.ofNat 32 a) 4) s).response = some ⟨false, v⟩ := by
  subst ha
  have hfit := len_fits hg hv b
  rw [hb] at hfit
  refine response_read_window hv hp (by omega) (by rw [hb]; omega) (by omega) ?_
  rw [← hval, State.realAt, Buffer.addr, hb]

/-- With a legal geometry each part of an active element of a complex buffer is read at its address. -/
theorem response_read_complex {b : Buffer} (hb : b.elemSize = 8) {s : State} {e a p : Nat} {re im : Word}
    (hv : s.wsValid = true) (hg : s.GeometryLegal) (hp : s.pending = none) (he : e < b.len s)
    (hval : s.complexAt b e = some (re, im)) (hpart : p < 2) (ha : a = b.base + 8 * e + 4 * p) :
    (transact (.read (BitVec.ofNat 32 a) 4) s).response = some ⟨false, if p = 0 then re else im⟩ := by
  subst ha
  have hfit := len_fits hg hv b
  rw [hb] at hfit
  obtain ⟨hre, him⟩ := (complexAt_eq_some_iff _ _ _ _ _).1 hval
  rw [Nat.add_assoc]
  refine response_read_window hv hp (by omega) (by rw [hb]; omega) (by omega) ?_
  rw [Buffer.addr, hb] at hre him
  obtain rfl | rfl : p = 0 ∨ p = 1 := by omega
  · simpa using hre
  · simpa [Nat.add_assoc] using him

/-- An index of a row-major layout lies below the product of its bounds. -/
theorem rowMajor_lt {i j m n : Nat} (hi : i < m) (hj : j < n) : i * n + j < m * n := by
  calc i * n + j < i * n + n := by omega
    _ = (i + 1) * n := by ring
    _ ≤ m * n := Nat.mul_le_mul_right n hi

/-- Settles O55: every address of the layouts lies in the active part of its window. -/
theorem windowsShowTheElements : Obligations.WindowsShowTheElements := by
  unfold Obligations.WindowsShowTheElements
  intro s hv hg hp
  refine ⟨fun c n v hc hn hval => ?_, fun c b f p re im hc hb hf hpart hval => ?_,
    fun b f p re im hb hf hpart hval => ?_, ?_⟩
  · exact response_read_real rfl hv hg hp (rowMajor_lt hc hn) hval rfl
  · refine response_read_complex rfl hv hg hp ?_ hval hpart rfl
    exact rowMajor_lt (rowMajor_lt hc hb) hf
  · exact response_read_complex rfl hv hg hp (rowMajor_lt hf hb) hval hpart rfl
  · simp only [List.forall_mem_cons, List.not_mem_nil, false_implies, implies_true, and_true]
    exact ⟨fun i v hi hval => response_read_real rfl hv hg hp hi hval rfl,
      fun i v hi hval => response_read_real rfl hv hg hp hi hval rfl,
      fun i v hi hval => response_read_real rfl hv hg hp hi hval rfl,
      fun i v hi hval => response_read_real rfl hv hg hp hi hval rfl,
      fun i v hi hval => response_read_real rfl hv hg hp hi hval rfl,
      fun i v hi hval => response_read_real rfl hv hg hp hi hval rfl,
      fun i v hi hval => response_read_real rfl hv hg hp hi hval rfl⟩

end Sys2Proof.Proofs.HostPort
end

section
/-! Checks, completion and frames (60_exceptions.md R402 to R406; 40_setup.md R221 to R223): which check fails first, what a
command, a transaction and a step leave of the state, and from these the statements about execution. -/

namespace Sys2Proof.Proofs.Execution

open Sys2Proof.Machine Sys2Proof.Proofs.Stft Sys2Proof.Proofs.Exceptions Sys2Proof.Proofs.HostPort

/-! ### The Engine's turn -/

/-- With no turn listed the Engine moves (log 2). -/
theorem step_of_no_turns {s : State} (h : s.turns = []) : step s = engineStep s := by
  simp [step, h]

/-- The Engine's step with a word pending (R83). -/
theorem engineStep_of_pending {s : State} {p : Pending} (h : s.pending = some p) :
    engineStep s = executeWord p.word s := by
  simp [engineStep, h]

/-- Settles O6: either way the Engine's turn comes, it runs the pending word, which decodes. -/
theorem stepRunsDecodedCommand : Obligations.StepRunsDecodedCommand := by
  unfold Obligations.StepRunsDecodedCommand
  intro s p i hp hi
  have hrun : ∀ u : State, u.pending = some p → engineStep u = exec i u := fun u hu => by
    rw [engineStep_of_pending hu, executeWord, hi]
  refine ⟨fun h => ?_, fun ts h => ?_⟩
  · rw [step_of_no_turns h, hrun s hp]
  · rw [← hrun _ (show State.pending { s with turns := ts } = some p from hp)]
    simp [step, h, takeTurn]

/-- Settles O7: the Engine's turn meets a word without a command. -/
theorem illegalWordFails : Obligations.IllegalWordFails := by
  unfold Obligations.IllegalWordFails
  intro s p hp hdecode hturns
  rw [step_of_no_turns hturns, engineStep_of_pending hp, executeWord]
  cases h : decode p.word with
  | error e => rfl
  | ok i => exact absurd h (hdecode i)

/-! ### The checks -/

/-- A failing check fails its command (R402, R404). -/
theorem exec_of_error {i : Instr} {s : State} {e : CmdError} (he : commandError i s = some e) :
    exec i s = .next { s with errCode := e.code, errInfo := encode i, irqErr := true, pending := none } := by
  rw [exec_eq_execute, execute_of_error he]
  rfl

/-- A command whose checks pass and whose body runs completes (R402, R406). -/
theorem exec_of_body {i : Instr} {s u : State} (he : commandError i s = none) (hb : bodyOf i s = .ok u) :
    exec i s = .next (succeed u) := by
  rw [exec_eq_execute, execute_of_ok he hb]

/-- Settles O8: each check is reached when the ones before it pass, by the columns of R173. -/
theorem commonChecksInOrder : Obligations.CommonChecksInOrder := by
  unfold Obligations.CommonChecksInOrder
  refine ⟨fun i s hnop hws hv => ?_, fun i s c f hi hv hwin => ?_, fun i s f hi hv hwin hf => ?_⟩
  · have hneeds : needsWs i = true := by cases i <;> simp_all [needsWs]
    exact exec_of_error (e := .wsNotReady) (by simp [commandError, hneeds, hv])
  · have hneeds : needsWin i = true := by revert hi; cases i <;> simp [needsWin]
    exact exec_of_error (e := .winNotReady) (by simp [commandError, hneeds, hv, hwin])
  · have hframe : frameTooLarge i s = true := by
      obtain rfl | rfl : i = .frameFwd f ∨ i = .frameInv f := by simpa using hi
      all_goals exact decide_eq_true hf
    exact exec_of_error (e := .badFrame) (by simp [commandError, hv, hwin, hframe])

/-- WS_INIT has its own checks alone (R222). -/
theorem commandError_wsInit (s : State) : commandError .wsInit s = cfgError s.build s.wsCfg := by
  simp [commandError, needsWs, needsWin, frameTooLarge, frameOperand, ownError, wsInitError]

/-- A positive finite binary32 by its bits (R64, R222). -/
theorem epsOk_iff_bits (E : Word) :
    epsOk E = true ↔ E.getLsbD 31 = false ∧ E.extractLsb' 23 8 ≠ 0xFF#8 ∧ E ≠ 0#32 := by
  have hE := E.isLt
  have hsign : E.getLsbD 31 = false ↔ E.toNat < 2 ^ 31 := by
    rw [BitVec.getLsbD, Nat.testBit_eq_decide_div_mod_eq, decide_eq_false_iff_not]
    omega
  have hexp : E.extractLsb' 23 8 = 0xFF#8 ↔ E.toNat / 2 ^ 23 % 2 ^ 8 = 255 := by
    rw [← BitVec.toNat_inj, BitVec.extractLsb'_toNat, Nat.shiftRight_eq_div_pow]
    rfl
  have hzero : E = 0#32 ↔ E.toNat = 0 := by rw [← BitVec.toNat_inj]; rfl
  rw [hsign, ne_eq, hexp, ne_eq, hzero]
  unfold epsOk
  rw [decide_eq_true_eq, show infMag = 0x7F800000 from rfl]
  omega

/-- Settles O9: the checks of R222 are the branches of `cfgError`. -/
theorem wsInitChecksInOrder : Obligations.WsInitChecksInOrder := by
  unfold Obligations.WsInitChecksInOrder
  intro s W H N E hW hH hN hE winOk hopOk sigOk epsGood failed
  have heps : epsOk s.wsCfg.eps = true ↔ epsGood := by rw [hE]; exact epsOk_iff_bits E
  have hfail : ∀ e : CmdError, cfgError s.build s.wsCfg = some e → failed e.code := fun e he =>
    exec_of_error ((commandError_wsInit s).trans he)
  subst hW hH hN
  refine ⟨fun h1 => hfail .badWinLen ?_, fun h1 h2 => hfail .badHop ?_, fun h1 h2 h3 => hfail .badSigLen ?_,
    fun h1 h2 h3 h4 => hfail .badEps ?_, fun h1 h2 h3 h4 h5 => hfail .capacity ?_⟩ <;> simp only [cfgError]
  · rw [if_pos h1]
  · rw [if_neg (not_not.2 h1), if_pos h2]
  · rw [if_neg (not_not.2 h1), if_neg (not_not.2 h2), if_pos h3]
  · rw [if_neg (not_not.2 h1), if_neg (not_not.2 h2), if_neg (not_not.2 h3), if_pos (mt heps.1 h4)]
  · rw [if_neg (not_not.2 h1), if_neg (not_not.2 h2), if_neg (not_not.2 h3), if_neg (not_not.2 (heps.2 h4)), if_pos h5]

/-- Settles O11: the two ways a command answers next. -/
theorem failureIsPrecise : Obligations.FailureIsPrecise := by
  unfold Obligations.FailureIsPrecise
  intro i s t h
  obtain ⟨e, he, rfl⟩ | ⟨he, u, -, rfl⟩ := (exec_next_iff i s t).1 h
  · exact .inl ⟨e, he, rfl⟩
  · exact .inr ⟨he, rfl, rfl, rfl⟩

/-! ### Frames -/

/-- A body leaves all but the geometry, its flags and the buffers as it was. -/
theorem bodyOf_frame {i : Instr} {s u : State} (h : bodyOf i s = .ok u) :
    u = { s with
      wsValid := u.wsValid, winValid := u.winValid, actWinLen := u.actWinLen, actHop := u.actHop,
      actSigLen := u.actSigLen, actEps := u.actEps, padLen := u.padLen, paddedLen := u.paddedLen,
      nbFrames := u.nbFrames, nbBins := u.nbBins, fwdScale := u.fwdScale, invScale := u.invScale, mem := u.mem } := by
  by_cases hws : i = .wsInit
  · subst hws
    obtain rfl : wsInitBody s = u := Except.ok.inj h
    rfl
  by_cases hwin : i = .winGen
  · subst hwin
    obtain rfl : winGenBody s = u := Except.ok.inj h
    rfl
  obtain ⟨hframe, -⟩ := bodyOf_writesOnly hws hwin h
  rw [hframe]

/-- A command leaves all but the geometry, its flags, the buffers and the completion registers as it was. -/
theorem exec_frame {i : Instr} {s t : State} (h : exec i s = .next t) :
    t = { s with
      wsValid := t.wsValid, winValid := t.winValid, actWinLen := t.actWinLen, actHop := t.actHop,
      actSigLen := t.actSigLen, actEps := t.actEps, padLen := t.padLen, paddedLen := t.paddedLen,
      nbFrames := t.nbFrames, nbBins := t.nbBins, fwdScale := t.fwdScale, invScale := t.invScale, mem := t.mem,
      errCode := t.errCode, errInfo := t.errInfo, irqDone := t.irqDone, irqErr := t.irqErr,
      pending := t.pending } := by
  obtain ⟨e, -, rfl⟩ | ⟨-, u, hbody, rfl⟩ := (exec_next_iff i s t).1 h
  · rfl
  · have hframe := bodyOf_frame hbody
    rw [hframe]
    rfl

/-- Settles O12: the command's frame, and the four CSR writes. -/
theorem commandsLeaveConfigurationAlone : Obligations.CommandsLeaveConfigurationAlone := by
  unfold Obligations.CommandsLeaveConfigurationAlone
  refine ⟨fun i s t h => ?_, fun v s => ⟨?_, ?_, ?_, ?_⟩⟩
  · have hframe := exec_frame h
    refine ⟨?_, ?_, ?_, ?_, ?_, ?_, ?_, ?_, ?_, ?_, ?_⟩ <;> rw [hframe]
  · exact transact_write_csr (off := 0x30) (by decide) (by decide) v fun h => absurd h (by decide)
  · exact transact_write_csr (off := 0x34) (by decide) (by decide) v fun h => absurd h (by decide)
  · exact transact_write_csr (off := 0x38) (by decide) (by decide) v fun h => absurd h (by decide)
  · exact transact_write_csr (off := 0x3C) (by decide) (by decide) v fun h => absurd h (by decide)

/-- Settles O14: the flag a completion sets, with the other as it was. -/
theorem irqFollowsCompletion : Obligations.IrqFollowsCompletion := by
  unfold Obligations.IrqFollowsCompletion
  intro i s t h
  obtain ⟨e, he, rfl⟩ | ⟨he, u, hbody, rfl⟩ := (exec_next_iff i s t).1 h
  · refine ⟨fun hnone => by simp [he] at hnone, fun _ => ?_⟩
    simp [State.irq]
  · refine ⟨fun _ => ?_, fun hsome => absurd he hsome⟩
    have hframe := bodyOf_frame hbody
    obtain ⟨-, herr⟩ := bodyOf_keeps_error_record hbody
    have hdone : u.doneEn = s.doneEn := by rw [hframe]
    have herrEn : u.errEn = s.errEn := by rw [hframe]
    simp [State.irq, herr, hdone, herrEn]

/-- The Host's transactions but a soft reset leave the geometry, its flags and the error registers as they were, and the
turns and the build. -/
theorem transact_frame {r : BusReq} (s : State) (hr : (Turn.host r).isReset = false) :
    transact r s = { s with
      cfgWinLen := (transact r s).cfgWinLen, cfgHop := (transact r s).cfgHop, cfgSigLen := (transact r s).cfgSigLen,
      cfgEps := (transact r s).cfgEps, irqDone := (transact r s).irqDone, irqErr := (transact r s).irqErr,
      doneEn := (transact r s).doneEn, errEn := (transact r s).errEn, lastOp := (transact r s).lastOp,
      pending := (transact r s).pending, mem := (transact r s).mem, response := (transact r s).response,
      draws := (transact r s).draws } := by
  obtain ⟨-, h⟩ | ⟨-, ⟨a, n, -, h⟩ | ⟨a, n, v, rfl, h⟩⟩ := transact_cases r s
  · rw [h]; rfl
  · obtain ⟨w, m, hframe⟩ := acceptRead_frame a.toNat s
    rw [h, hframe]
  · rw [h]
    unfold acceptWrite
    split
    · rename_i hregion
      unfold csrWrite
      split
      case h_1 hoff =>
        have ha : a = 0x00000008#32 := by
          apply BitVec.eq_of_toNat_eq
          simp only [regionOf, offsetOf] at hregion hoff
          simp; omega
        simp only [Turn.isReset, ha, decide_true, Bool.true_and] at hr
        simp only [writeCtrl, hr]
        rfl
      all_goals rfl
    · rfl

/-- A body other than WS_INIT's keeps the geometry, and other than WIN_GEN's the flag of the arrays (R223, R226). -/
theorem bodyOf_keeps_geometry {i : Instr} {s u : State} (hi : i ≠ .wsInit) (h : bodyOf i s = .ok u) :
    SameGeometry s u ∧ u.wsValid = s.wsValid ∧ (i ≠ .winGen → u.winValid = s.winValid) := by
  by_cases hwin : i = .winGen
  · subst hwin
    obtain rfl : winGenBody s = u := Except.ok.inj h
    simp [winGenBody, SameGeometry]
  · obtain ⟨hframe, -⟩ := bodyOf_writesOnly hi hwin h
    rw [hframe]
    simp [SameGeometry]

/-- A command other than WS_INIT keeps the geometry, and other than WIN_GEN the flag of the arrays. -/
theorem exec_keeps_geometry {i : Instr} {s t : State} (hi : i ≠ .wsInit) (h : exec i s = .next t) :
    SameGeometry s t ∧ t.wsValid = s.wsValid ∧ (i ≠ .winGen → t.winValid = s.winValid) := by
  obtain ⟨e, -, rfl⟩ | ⟨-, u, hbody, rfl⟩ := (exec_next_iff i s t).1 h
  · simp [SameGeometry]
  · exact bodyOf_keeps_geometry (u := u) hi hbody

/-- A transaction that is no soft reset keeps the geometry and its flags. -/
theorem transact_keeps_geometry {r : BusReq} (s : State) (hr : (Turn.host r).isReset = false) :
    SameGeometry s (transact r s) ∧ (transact r s).wsValid = s.wsValid ∧ (transact r s).winValid = s.winValid := by
  rw [transact_frame s hr]
  simp [SameGeometry]

/-- What a step that is no reset can do when it answers next, with the turn it used up taken off: nothing, fail on an
illegal word, run a command, or serve a transaction. -/
theorem step_cases_of_no_reset {s t : State} (h : step s = .next t) (hreset : s.nextTurn.isReset = false) :
    ∃ ts, t = { s with turns := ts } ∨
      (∃ v, t = fail v .illegalCmd { s with turns := ts }) ∨
      (∃ i, s.Runs i ∧ exec i { s with turns := ts } = .next t) ∨
      (∃ r, (Turn.host r).isReset = false ∧ t = transact r { s with turns := ts }) := by
  obtain ⟨u, hu, hcase⟩ | ⟨r, ts, hts, rfl⟩ | ⟨ts, hts, -⟩ := step_next_cases h
  · have hturn : s.nextTurn = .engine ∧ ∃ ts, u = { s with turns := ts } := by
      rcases hu with ⟨rfl, hts⟩ | ⟨ts, hts, rfl⟩
      · exact ⟨by simp [State.nextTurn, hts], _, rfl⟩
      · exact ⟨by simp [State.nextTurn, hts], _, rfl⟩
    obtain ⟨hengine, ts, rfl⟩ := hturn
    refine ⟨ts, ?_⟩
    rcases hcase with ⟨-, rfl⟩ | ⟨p, hp, hrun⟩
    · exact .inl rfl
    · obtain ⟨-, rfl⟩ | ⟨i, hi, hexec⟩ := executeWord_next_cases hrun
      · exact .inr (.inl ⟨_, rfl⟩)
      · exact .inr (.inr (.inl ⟨i, ⟨hengine, p, hp, hi⟩, hexec⟩))
  · refine ⟨ts, .inr (.inr (.inr ⟨r, ?_, rfl⟩))⟩
    simpa [State.nextTurn, hts] using hreset
  · simp [State.nextTurn, hts, Turn.isReset] at hreset

/-- Settles O13: by the frames of commands and transactions, and the cases of a step. -/
theorem geometryChangesOnlyByWsInit : Obligations.GeometryChangesOnlyByWsInit := by
  unfold Obligations.GeometryChangesOnlyByWsInit
  refine ⟨fun i s t hi h => exec_keeps_geometry hi h, fun r s hr => transact_keeps_geometry s hr,
    fun s t h hreset hrun => ?_⟩
  obtain ⟨ts, rfl | ⟨v, rfl⟩ | ⟨i, hruns, hexec⟩ | ⟨r, hr, rfl⟩⟩ := step_cases_of_no_reset h hreset
  · simp [SameGeometry]
  · simp [SameGeometry]
  · have hi : i ≠ .wsInit := fun hi => hrun (hi ▸ hruns)
    obtain ⟨hsame, hv, hwin⟩ := exec_keeps_geometry hi hexec
    exact ⟨hsame, hv, fun hgen => hwin fun hi => hgen (hi ▸ hruns)⟩
  · obtain ⟨hsame, hv, hwin⟩ := transact_keeps_geometry { s with turns := ts } hr
    exact ⟨hsame, hv, fun _ => hwin⟩

/-! ### NOP and WS_INIT -/

/-- Settles O17: NOP has no check and an empty body. -/
theorem nopCompletes : Obligations.NopCompletes := by
  unfold Obligations.NopCompletes
  intro s
  have hchecks : commandError .nop s = none := by
    simp [commandError, needsWs, needsWin, frameTooLarge, frameOperand, ownError]
  exact exec_of_body hchecks rfl

/-- The derived registers WS_INIT latches hold their values: the checks keep them in range (R7, R223). -/
theorem latchCfg_registers {c : CfgRegs} {s : State} (hb : BuildLegal s.build) (h : cfgError s.build c = none) :
    (latchCfg c s).gP = c.winLen.toNat / 2 ∧ (latchCfg c s).gL = c.sigLen.toNat + 2 * (c.winLen.toNat / 2) ∧
      (latchCfg c s).gNB = c.sigLen.toNat / c.hop.toNat + 1 ∧ (latchCfg c s).gNBINS = c.winLen.toNat / 2 + 1 := by
  obtain ⟨⟨-, -, hW, -⟩, -, ⟨-, hN⟩, -, hNB⟩ := (cfgError_none_iff _ _).1 h
  obtain ⟨hb1, -, -, hb4, -⟩ := hb
  have hlt : c.winLen.toNat < 2 ^ 32 := c.winLen.isLt
  simp only [State.gP, State.gL, State.gNB, State.gNBINS, latchCfg, BitVec.toNat_ofNat]
  refine ⟨?_, ?_, ?_, ?_⟩ <;> apply Nat.mod_eq_of_lt <;> omega

/-- A latched geometry is legal (R222, R223). -/
theorem latchCfg_geometryLegal {c : CfgRegs} {s : State} (hb : BuildLegal s.build) (h : cfgError s.build c = none) :
    (latchCfg c s).GeometryLegal := by
  obtain ⟨hP, hL, hNB, hBINS⟩ := latchCfg_registers hb h
  obtain ⟨hW, hH, hN, heps, hcap⟩ := (cfgError_none_iff _ _).1 h
  refine ⟨hb, fun _ => ⟨hW, hH, hN, heps, hP, ?_, hNB, ?_, ?_, rfl, rfl⟩⟩
  · rw [hL, hP]; rfl
  · rw [hBINS, hP]
  · rw [hNB]; exact hcap

/-- Settles O18: the checks pass, and the body is the latching and the emptying of the buffers. -/
theorem wsInitLatchesGeometry : Obligations.WsInitLatchesGeometry := by
  unfold Obligations.WsInitLatchesGeometry
  intro s W H N hb hW hH hN heven h2 hmax hfft hH1 hHW hN1 hNmax hsign hexp hzero hcap
  subst hW hH hN
  have hcfg : cfgError s.build s.wsCfg = none :=
    (cfgError_none_iff _ _).2 ⟨⟨heven, h2, hmax, hfft⟩, ⟨hH1, hHW⟩, ⟨hN1, hNmax⟩,
      (epsOk_iff_bits _).2 ⟨hsign, hexp, hzero⟩, hcap⟩
  obtain ⟨hP, hL, hNB, hBINS⟩ := latchCfg_registers hb hcfg
  have hrun : exec .wsInit s = .next (succeed (wsInitBody s)) :=
    exec_of_body ((commandError_wsInit s).trans hcfg) rfl
  refine ⟨_, hrun, rfl, hP, ?_, hNB, hBINS, latchCfg_geometryLegal hb hcfg, fun _ => rfl⟩
  refine hL.trans ?_
  omega

end Sys2Proof.Proofs.Execution
end

section
/-! Elements (10_state.md R82): which bytes an element has, what a body leaves of the bytes outside the ranges it writes, and
that no body takes a value away. -/

namespace Sys2Proof.Proofs.Elements

open Sys2Proof.Machine

/-! ### The bytes of an element -/

/-- Element e of a buffer holds a value: each of its bytes does (R82, R123). -/
def Holds (s : State) (b : Buffer) (e : Nat) : Prop :=
  ∀ j, j < b.elemSize → (s.byteAt (b.addr e + j)).isSome = true

/-- The ten buffers have elements of four or of eight bytes (R123). -/
theorem elemSize_cases (b : Buffer) : b.elemSize = 4 ∨ b.elemSize = 8 := by
  cases b <;> simp [Buffer.elemSize]

theorem realAt_isSome_iff {b : Buffer} (hb : b.elemSize = 4) (s : State) (e : Nat) :
    (s.realAt b e).isSome = true ↔ Holds s b e := by
  unfold Holds
  rw [hb]
  exact word_isSome_iff _ _

theorem complexAt_isSome_iff {b : Buffer} (hb : b.elemSize = 8) (s : State) (e : Nat) :
    (s.complexAt b e).isSome = true ↔ Holds s b e := by
  have hparts : (s.complexAt b e).isSome = true ↔
      (s.mem.word (b.addr e)).isSome = true ∧ (s.mem.word (b.addr e + 4)).isSome = true := by
    unfold State.complexAt
    cases s.mem.word (b.addr e) <;> cases s.mem.word (b.addr e + 4) <;> simp
  rw [hparts, word_isSome_iff, word_isSome_iff]
  unfold Holds
  rw [hb]
  constructor
  · rintro ⟨hre, him⟩ j hj
    by_cases h : j < 4
    · exact hre j h
    · have := him (j - 4) (by omega)
      rwa [show b.addr e + 4 + (j - 4) = b.addr e + j by omega] at this
  · refine fun h => ⟨fun j hj => h j (by omega), fun j hj => ?_⟩
    have := h (4 + j) (by omega)
    rwa [← Nat.add_assoc] at this

/-- The bytes of element e of a range lie in the range. -/
theorem covers_element {b : Buffer} {start n e j : Nat} (h1 : start ≤ e) (h2 : e < start + n) (hj : j < b.elemSize) :
    b.Covers start n (b.addr e + j) := by
  have hlo : b.elemSize * start ≤ b.elemSize * e := Nat.mul_le_mul_left _ h1
  have hhi : b.elemSize * (e + 1) ≤ b.elemSize * (start + n) := Nat.mul_le_mul_left _ h2
  rw [Nat.mul_succ] at hhi
  simp only [Buffer.Covers, Buffer.addr]
  omega

/-- A range inside another one. -/
theorem covers_mono {b : Buffer} {start n start' n' a : Nat} (h : b.Covers start n a) (h1 : start' ≤ start)
    (h2 : start + n ≤ start' + n') : b.Covers start' n' a := by
  have hlo : b.elemSize * start' ≤ b.elemSize * start := Nat.mul_le_mul_left _ h1
  have hhi : b.elemSize * (start + n) ≤ b.elemSize * (start' + n') := Nat.mul_le_mul_left _ h2
  simp only [Buffer.Covers, Buffer.addr] at h ⊢
  omega

/-- Ranges of one buffer that do not meet have no address in common. -/
theorem covers_apart {b : Buffer} {start n start' n' a : Nat} (h : b.Covers start n a) (h' : b.Covers start' n' a)
    (hapart : start + n ≤ start' ∨ start' + n' ≤ start) : False := by
  simp only [Buffer.Covers, Buffer.addr] at h h'
  rcases hapart with hle | hle
  · have : b.elemSize * (start + n) ≤ b.elemSize * start' := Nat.mul_le_mul_left _ hle
    omega
  · have : b.elemSize * (start' + n') ≤ b.elemSize * start := Nat.mul_le_mul_left _ hle
    omega

/-- Real elements whose bytes are as before read as before. -/
theorem readsAs_of_bytes {s t : State} {b : Buffer} (hb : b.elemSize = 4) {start : Nat} {x : List Word}
    (hbytes : ∀ a, b.Covers start x.length a → t.byteAt a = s.byteAt a) (h : s.ReadsAs b start x) :
    t.ReadsAs b start x := by
  intro i hi
  rw [← h i hi]
  exact realAt_congr fun j hj => hbytes _ (covers_element (by omega) (by omega) (by omega))

/-- Complex elements whose bytes are as before read as before. -/
theorem complexAt_of_bytes {s t : State} {b : Buffer} (hb : b.elemSize = 8) {start n : Nat}
    (hbytes : ∀ a, b.Covers start n a → t.byteAt a = s.byteAt a) {e : Nat} (h1 : start ≤ e) (h2 : e < start + n) :
    t.complexAt b e = s.complexAt b e :=
  complexAt_congr fun j hj => hbytes _ (covers_element h1 h2 (by omega))

/-- A part of what a buffer holds. -/
theorem readsAs_slice {s : State} {b : Buffer} {start : Nat} {x : List Word} (h : s.ReadsAs b start x) (k n : Nat) :
    s.ReadsAs b (start + k) ((x.drop k).take n) := by
  intro i hi
  rw [List.length_take, List.length_drop] at hi
  rw [Nat.add_assoc, h (k + i) (by omega), List.getElem?_take, if_pos (by omega), List.getElem?_drop]

/-! ### What the bodies leave alone -/

theorem byteAt_loadRow {cmd : Instr} {c : Nat} {s t : State} (h : loadRowBody cmd c s = .ok t) {a : Nat}
    (ha : ¬ Buffer.padded.Covers s.gP s.gN a) : t.byteAt a = s.byteAt a := by
  obtain ⟨x, hlen, -, rfl⟩ := (loadRowBody_ok_iff _ _ _ _).1 h
  exact byteAt_writeReals_of_not _ rfl _ _ _ _ (hlen ▸ ha)

theorem byteAt_writePads {x y : List Word} {s : State} (hx : x.length = s.gP) (hy : y.length = s.gP) {a : Nat}
    (h1 : ¬ Buffer.padStart.Covers 0 s.gP a) (h2 : ¬ Buffer.padEnd.Covers 0 s.gP a)
    (h3 : ¬ Buffer.padded.Covers 0 s.gP a) (h4 : ¬ Buffer.padded.Covers (s.gP + s.gN) s.gP a) :
    (writePads x y s).byteAt a = s.byteAt a := by
  unfold writePads
  rw [byteAt_writeReals_of_not _ rfl _ _ _ _ (by rwa [List.length_reverse, hy]),
    byteAt_writeReals_of_not _ rfl _ _ _ _ (by rwa [List.length_reverse, hx]),
    byteAt_writeReals_of_not _ rfl _ _ _ _ (by rwa [List.length_reverse, hy]),
    byteAt_writeReals_of_not _ rfl _ _ _ _ (by rwa [List.length_reverse, hx])]

theorem byteAt_reflectPad {cmd : Instr} {s t : State} (h : reflectPadBody cmd s = .ok t) {a : Nat}
    (h1 : ¬ Buffer.padStart.Covers 0 s.gP a) (h2 : ¬ Buffer.padEnd.Covers 0 s.gP a)
    (h3 : ¬ Buffer.padded.Covers 0 s.gP a) (h4 : ¬ Buffer.padded.Covers (s.gP + s.gN) s.gP a) :
    t.byteAt a = s.byteAt a := by
  obtain ⟨x, y, hx, -, hy, -, rfl⟩ := (reflectPadBody_ok_iff _ _ _).1 h
  exact byteAt_writePads hx hy h1 h2 h3 h4

@[simp] theorem forwardSpectrum_length {α : Type} (A : NumSystem α) (W n : Nat) (cf : α) (x : List α) :
    (forwardSpectrum A W n cf x).length = n := by
  simp [forwardSpectrum]

@[simp] theorem windowSegment_length {α : Type} (A : NumSystem α) (x w : List α) :
    (windowSegment A x w).length = min x.length w.length := by
  simp [windowSegment]

@[simp] theorem unscaleFrame_length {α : Type} (A : NumSystem α) (ci : α) (z : List (α × α)) :
    (unscaleFrame A ci z).length = z.length := by
  simp [unscaleFrame]

@[simp] theorem inverseSamples_length {α : Type} (A : NumSystem α) (W : Nat) (z : List (α × α)) :
    (inverseSamples A W z).length = W := by
  simp [inverseSamples]

@[simp] theorem synthesisTerms_length {α : Type} (A : NumSystem α) (W : Nat) (eps : α) (y w n : List α) :
    (synthesisTerms A W eps y w n).length = min y.length (min w.length n.length) := by
  simp [synthesisTerms]

theorem byteAt_writeForwardFrame {f : Nat} {x w : List Word} {s : State} (hx : x.length = s.gW) (hw : w.length = s.gW)
    {a : Nat} (h1 : ¬ Buffer.windowed.Covers 0 s.gW a) (h2 : ¬ Buffer.cframes.Covers (f * s.gNBINS) s.gNBINS a) :
    (writeForwardFrame f x w s).byteAt a = s.byteAt a := by
  unfold writeForwardFrame
  rw [byteAt_writeComplexes_of_not _ rfl _ _ _ _ (by rwa [forwardSpectrum_length]),
    byteAt_writeReals_of_not _ rfl _ _ _ _ (by rwa [windowSegment_length, hx, hw, Nat.min_self])]

theorem byteAt_frameFwd {cmd : Instr} {f : Nat} {s t : State} (h : frameFwdBody cmd f s = .ok t) {a : Nat}
    (h1 : ¬ Buffer.windowed.Covers 0 s.gW a) (h2 : ¬ Buffer.cframes.Covers (f * s.gNBINS) s.gNBINS a) :
    t.byteAt a = s.byteAt a := by
  obtain ⟨x, w, hx, -, hw, -, rfl⟩ := (frameFwdBody_ok_iff _ _ _ _).1 h
  exact byteAt_writeForwardFrame hx hw h1 h2

/-- A list of rows of one length. -/
theorem length_flatMap_rows {α : Type} (m n : Nat) (g : Nat → Nat → α) :
    ((List.range m).flatMap fun i => (List.range n).map (g i)).length = m * n := by
  simp

theorem specIndex_zero (s : State) (c : Nat) : s.specIndex c 0 0 = c * s.gNBINS * s.gNB := by
  simp [State.specIndex]

theorem byteAt_specStore {cmd : Instr} {c : Nat} {s t : State} (h : specStoreBody cmd c s = .ok t) {a : Nat}
    (ha : ¬ Buffer.spec.Covers (c * s.gNBINS * s.gNB) (s.gNBINS * s.gNB) a) : t.byteAt a = s.byteAt a := by
  obtain ⟨z, hz, rfl⟩ := (specStoreBody_ok_iff _ _ _ _).1 h
  have hlen : z.length = s.gNBINS * s.gNB := by
    have := congrArg List.length hz
    rw [List.length_map, List.length_map, State.binMajor, length_flatMap_rows] at this
    exact this.symm
  exact byteAt_writeComplexes_of_not _ rfl _ _ _ _ (by rwa [hlen, specIndex_zero])

theorem byteAt_specLoad {cmd : Instr} {c : Nat} {s t : State} (h : specLoadBody cmd c s = .ok t) {a : Nat}
    (ha : ¬ Buffer.cframes.Covers 0 (s.gNB * s.gNBINS) a) : t.byteAt a = s.byteAt a := by
  obtain ⟨z, hz, rfl⟩ := (specLoadBody_ok_iff _ _ _ _).1 h
  have hlen : z.length = s.gNB * s.gNBINS := by
    have := congrArg List.length hz
    rw [List.length_map, List.length_map, State.frameMajor, length_flatMap_rows] at this
    exact this.symm
  exact byteAt_writeComplexes_of_not _ rfl _ _ _ _ (by rwa [hlen])

theorem byteAt_accClear (s : State) {a : Nat} (ha : ¬ Buffer.outacc.Covers 0 s.gL a) :
    (accClearBody s).byteAt a = s.byteAt a :=
  byteAt_writeReals_of_not _ rfl _ _ _ _ (by rwa [List.length_replicate])

theorem byteAt_writeInverseFrame {f : Nat} {z : List (Word × Word)} {x w n : List Word} {s : State}
    (hz : z.length = s.gNBINS) (hx : x.length = s.gW) (hw : w.length = s.gW) (hn : n.length = s.gW) {a : Nat}
    (h1 : ¬ Buffer.cframes.Covers (f * s.gNBINS) s.gNBINS a) (h2 : ¬ Buffer.windowed.Covers 0 s.gW a)
    (h3 : ¬ Buffer.outacc.Covers (f * s.gH) s.gW a) : (writeInverseFrame f z x w n s).byteAt a = s.byteAt a := by
  simp only [writeInverseFrame]
  rw [byteAt_writeReals_of_not _ rfl _ _ _ _ (by simpa [hx, hw, hn, State.frameStart] using h3),
    byteAt_writeReals_of_not _ rfl _ _ _ _ (by rwa [inverseSamples_length]),
    byteAt_writeComplexes_of_not _ rfl _ _ _ _ (by rwa [unscaleFrame_length, hz])]

theorem byteAt_frameInv {cmd : Instr} {f : Nat} {s t : State} (h : frameInvBody cmd f s = .ok t) {a : Nat}
    (h1 : ¬ Buffer.cframes.Covers (f * s.gNBINS) s.gNBINS a) (h2 : ¬ Buffer.windowed.Covers 0 s.gW a)
    (h3 : ¬ Buffer.outacc.Covers (f * s.gH) s.gW a) : t.byteAt a = s.byteAt a := by
  obtain ⟨z, x, w, n, hz, -, hx, -, hw, -, hn, -, rfl⟩ := (frameInvBody_ok_iff _ _ _ _).1 h
  exact byteAt_writeInverseFrame hz hx hw hn h1 h2 h3

theorem byteAt_rowStore {cmd : Instr} {c : Nat} {s t : State} (h : rowStoreBody cmd c s = .ok t) {a : Nat}
    (ha : ¬ Buffer.wave.Covers (c * s.gN) s.gN a) : t.byteAt a = s.byteAt a := by
  obtain ⟨x, hlen, -, rfl⟩ := (rowStoreBody_ok_iff _ _ _ _).1 h
  exact byteAt_writeReals_of_not _ rfl _ _ _ _ (by rwa [hlen])

/-! ### No body takes a value away -/

/-- Every byte that held a value holds one. -/
def Grows (s t : State) : Prop := ∀ a, (s.byteAt a).isSome = true → (t.byteAt a).isSome = true

theorem Grows.refl (s : State) : Grows s s := fun _ h => h

theorem Grows.trans {s t u : State} (h : Grows s t) (k : Grows t u) : Grows s u := fun a ha => k a (h a ha)

/-- An element that holds a value keeps holding one. -/
theorem Grows.holds {s t : State} (h : Grows s t) {b : Buffer} {e : Nat} (he : Holds s b e) : Holds t b e :=
  fun j hj => h _ (he j hj)

/-- Words that are written hold values; the other bytes are as before. -/
theorem isSome_byte_writeWords {m : Memory} {k : Nat} (a : Nat) (vs : List Word) (h : (m.byte k).isSome = true) :
    ((m.writeWords a vs).byte k).isSome = true := by
  unfold Memory.writeWords
  rw [byte_splice]
  split
  · rw [List.getElem?_eq_getElem (by omega)]; rfl
  · exact h

theorem grows_writeReals (b : Buffer) (n : Nat) (vs : List Word) (s : State) : Grows s (writeReals b n vs s) :=
  fun _ h => isSome_byte_writeWords _ _ h

theorem grows_writeComplexes (b : Buffer) (n : Nat) (zs : List (Word × Word)) (s : State) :
    Grows s (writeComplexes b n zs s) := fun _ h => isSome_byte_writeWords _ _ h

/-- What every body but those of WS_INIT and WIN_GEN does: it writes buffer elements, and takes no value away. -/
def Fills (s t : State) : Prop := WritesOnly s t ∧ Grows s t

theorem Fills.refl (s : State) : Fills s s := ⟨.refl s, .refl s⟩

theorem Fills.trans {s t u : State} (h : Fills s t) (k : Fills t u) : Fills s u :=
  ⟨h.1.trans k.1, h.2.trans k.2⟩

theorem fills_writeReals (b : Buffer) (n : Nat) (vs : List Word) (s : State) : Fills s (writeReals b n vs s) :=
  ⟨writesOnly_writeReals _ _ _ _, grows_writeReals _ _ _ _⟩

theorem fills_writeComplexes (b : Buffer) (n : Nat) (zs : List (Word × Word)) (s : State) :
    Fills s (writeComplexes b n zs s) :=
  ⟨writesOnly_writeComplexes _ _ _ _, grows_writeComplexes _ _ _ _⟩

theorem loadRowBody_fills {cmd : Instr} {c : Nat} {s t : State} (h : loadRowBody cmd c s = .ok t) : Fills s t := by
  obtain ⟨x, -, -, rfl⟩ := (loadRowBody_ok_iff _ _ _ _).1 h
  exact fills_writeReals _ _ _ _

theorem reflectPadBody_fills {cmd : Instr} {s t : State} (h : reflectPadBody cmd s = .ok t) : Fills s t := by
  obtain ⟨x, y, -, -, -, -, rfl⟩ := (reflectPadBody_ok_iff _ _ _).1 h
  exact (((fills_writeReals _ _ _ _).trans (fills_writeReals _ _ _ _)).trans (fills_writeReals _ _ _ _)).trans
    (fills_writeReals _ _ _ _)

theorem frameFwdBody_fills {cmd : Instr} {f : Nat} {s t : State} (h : frameFwdBody cmd f s = .ok t) : Fills s t := by
  obtain ⟨x, w, -, -, -, -, rfl⟩ := (frameFwdBody_ok_iff _ _ _ _).1 h
  exact (fills_writeReals _ _ _ _).trans (fills_writeComplexes _ _ _ _)

theorem specStoreBody_fills {cmd : Instr} {c : Nat} {s t : State} (h : specStoreBody cmd c s = .ok t) : Fills s t := by
  obtain ⟨z, -, rfl⟩ := (specStoreBody_ok_iff _ _ _ _).1 h
  exact fills_writeComplexes _ _ _ _

theorem specLoadBody_fills {cmd : Instr} {c : Nat} {s t : State} (h : specLoadBody cmd c s = .ok t) : Fills s t := by
  obtain ⟨z, -, rfl⟩ := (specLoadBody_ok_iff _ _ _ _).1 h
  exact fills_writeComplexes _ _ _ _

theorem accClearBody_fills (s : State) : Fills s (accClearBody s) := fills_writeReals _ _ _ _

theorem frameInvBody_fills {cmd : Instr} {f : Nat} {s t : State} (h : frameInvBody cmd f s = .ok t) : Fills s t := by
  obtain ⟨z, x, w, n, -, -, -, -, -, -, -, -, rfl⟩ := (frameInvBody_ok_iff _ _ _ _).1 h
  exact ((fills_writeComplexes _ _ _ _).trans (fills_writeReals _ _ _ _)).trans (fills_writeReals _ _ _ _)

theorem rowStoreBody_fills {cmd : Instr} {c : Nat} {s t : State} (h : rowStoreBody cmd c s = .ok t) : Fills s t := by
  obtain ⟨x, -, -, rfl⟩ := (rowStoreBody_ok_iff _ _ _ _).1 h
  exact fills_writeReals _ _ _ _

theorem forFrames_fills {body : Nat → State → Except Fault State} (hb : ∀ f s t, body f s = .ok t → Fills s t)
    {n start : Nat} {s t : State} (h : forFrames body start n s = .ok t) : Fills s t :=
  forFrames_induct (Fills s) (fun f _ _ hs hu => hs.trans (hb f _ _ hu)) n start s t (Fills.refl s) h

theorem stftBody_fills {cmd : Instr} {c : Nat} {s t : State} (h : stftBody cmd c s = .ok t) : Fills s t := by
  obtain ⟨s1, h1, s2, h2, s3, h3, h4⟩ := (stftBody_ok_iff _ _ _ _).1 h
  exact (((loadRowBody_fills h1).trans (reflectPadBody_fills h2)).trans
    (forFrames_fills (fun _ _ _ => frameFwdBody_fills) h3)).trans (specStoreBody_fills h4)

theorem istftBody_fills {cmd : Instr} {c : Nat} {s t : State} (h : istftBody cmd c s = .ok t) : Fills s t := by
  obtain ⟨s1, h1, s2, h2, h3⟩ := (istftBody_ok_iff _ _ _ _).1 h
  exact (((specLoadBody_fills h1).trans (accClearBody_fills s1)).trans
    (forFrames_fills (fun _ _ _ => frameInvBody_fills) h2)).trans (rowStoreBody_fills h3)

/-! ### What a write of buffers keeps of the geometry -/

/-- A state that differs in the buffers alone has the same geometry, flags and build. -/
theorem writesOnly_geometry {s t : State} (h : WritesOnly s t) :
    t.gW = s.gW ∧ t.gH = s.gH ∧ t.gN = s.gN ∧ t.gP = s.gP ∧ t.gL = s.gL ∧ t.gNB = s.gNB ∧ t.gNBINS = s.gNBINS := by
  obtain ⟨hframe, -⟩ := h
  refine ⟨?_, ?_, ?_, ?_, ?_, ?_, ?_⟩ <;> rw [hframe] <;> rfl

theorem writesOnly_wsValid {s t : State} (h : WritesOnly s t) : t.wsValid = s.wsValid := by
  obtain ⟨hframe, -⟩ := h
  rw [hframe]

theorem writesOnly_winValid {s t : State} (h : WritesOnly s t) : t.winValid = s.winValid := by
  obtain ⟨hframe, -⟩ := h
  rw [hframe]

theorem writesOnly_geometryLegal {s t : State} (h : WritesOnly s t) (hg : s.GeometryLegal) : t.GeometryLegal := by
  obtain ⟨hframe, -⟩ := h
  rw [hframe]
  exact hg

theorem writesOnly_len {s t : State} (h : WritesOnly s t) (b : Buffer) : b.len t = b.len s := by
  obtain ⟨hframe, -⟩ := h
  rw [hframe]
  rfl

end Sys2Proof.Proofs.Elements
end

section
/-! Faults (10_state.md R82, 60_exceptions.md R400, R405): a body that faults names an element without a value, which an
active geometry puts among the active elements. -/

namespace Sys2Proof.Proofs.Faults

open Sys2Proof.Machine Sys2Proof.Proofs.Stft Sys2Proof.Proofs.Elements Sys2Proof.Proofs.HostPort

/-! ### Reads that fault -/

/-- A sequence of two bodies faults exactly when the first does, or the second after it. -/
theorem bind_error_iff {ε α β : Type} (x : Except ε α) (f : α → Except ε β) (r : ε) :
    (x >>= f) = .error r ↔ x = .error r ∨ ∃ a, x = .ok a ∧ f a = .error r := by
  cases x <;> simp [bind, Except.bind]

/-- The fault names the command and an element of the list that holds no value. -/
def FaultsIn (cmd : Instr) (s : State) (b : Buffer) (es : List Nat) (r : Fault) : Prop :=
  ∃ e ∈ es, r = .unspecifiedRead cmd b e ∧ ¬ Holds s b e

theorem FaultsIn.of_tail {cmd : Instr} {s : State} {b : Buffer} {e : Nat} {es : List Nat} {r : Fault}
    (h : FaultsIn cmd s b es r) : FaultsIn cmd s b (e :: es) r := by
  obtain ⟨e', he', hr⟩ := h
  exact ⟨e', List.mem_cons_of_mem _ he', hr⟩

theorem readReals_error {cmd : Instr} {b : Buffer} (hb : b.elemSize = 4) {s : State} {es : List Nat} {r : Fault}
    (h : readReals cmd b s es = .error r) : FaultsIn cmd s b es r := by
  induction es with
  | nil => cases h
  | cons e es ih =>
    unfold readReals at h
    split at h
    · rename_i hnone
      refine ⟨e, List.mem_cons_self, (Except.error.inj h).symm, ?_⟩
      rw [← realAt_isSome_iff hb, hnone]
      simp
    · split at h
      · rename_i r' hr'
        obtain rfl := Except.error.inj h
        exact (ih hr').of_tail
      · cases h

theorem readComplexes_error {cmd : Instr} {b : Buffer} (hb : b.elemSize = 8) {s : State} {es : List Nat} {r : Fault}
    (h : readComplexes cmd b s es = .error r) : FaultsIn cmd s b es r := by
  induction es with
  | nil => cases h
  | cons e es ih =>
    unfold readComplexes at h
    split at h
    · rename_i hnone
      refine ⟨e, List.mem_cons_self, (Except.error.inj h).symm, ?_⟩
      rw [← complexAt_isSome_iff hb, hnone]
      simp
    · split at h
      · rename_i r' hr'
        obtain rfl := Except.error.inj h
        exact (ih hr').of_tail
      · cases h

/-! ### Bodies that fault -/

/-- The fault names the command and an element without a value, an active one when `inRange` holds. -/
def Faulted (cmd : Instr) (inRange : Prop) (s : State) (r : Fault) : Prop :=
  ∃ b e, r = .unspecifiedRead cmd b e ∧ ¬ Holds s b e ∧ (inRange → e < b.len s)

/-- What held no value after some writes held none before them. -/
theorem Faulted.of_fills {cmd : Instr} {inRange inRange' : Prop} {s t : State} {r : Fault} (hst : Fills s t)
    (h : Faulted cmd inRange t r) (hrange : inRange' → inRange) : Faulted cmd inRange' s r := by
  obtain ⟨b, e, rfl, hno, he⟩ := h
  refine ⟨b, e, rfl, fun hs => hno (hst.2.holds hs), fun h => ?_⟩
  rw [← writesOnly_len hst.1 b]
  exact he (hrange h)

theorem FaultsIn.faulted {cmd : Instr} {inRange : Prop} {s : State} {b : Buffer} {es : List Nat} {r : Fault}
    (h : FaultsIn cmd s b es r) (hlen : inRange → ∀ e ∈ es, e < b.len s) : Faulted cmd inRange s r := by
  obtain ⟨e, he, hr, hno⟩ := h
  exact ⟨b, e, hr, hno, fun hin => hlen hin e he⟩

/-- A latched legal geometry. -/
def Latched (s : State) : Prop := s.GeometryLegal ∧ s.wsValid = true

theorem latched_of_fills {s t : State} (h : Fills s t) (hs : Latched s) : Latched t :=
  ⟨writesOnly_geometryLegal h.1 hs.1, (writesOnly_wsValid h.1).trans hs.2⟩

theorem mem_indices {start n e : Nat} : e ∈ indices start n ↔ start ≤ e ∧ e < start + n := by
  simp only [indices, List.mem_map, List.mem_range]
  constructor
  · rintro ⟨i, hi, rfl⟩; omega
  · rintro ⟨h1, h2⟩; exact ⟨e - start, by omega, by omega⟩

/-- The numbers of a latched geometry (R7, R222). -/
theorem geometry_of_latched {s : State} (h : Latched s) :
    s.gW % 2 = 0 ∧ 2 ≤ s.gW ∧ 1 ≤ s.gH ∧ s.gH ≤ s.gW ∧ s.gP = s.gW / 2 ∧ s.gP + 1 ≤ s.gN ∧ s.gL = s.gN + 2 * s.gP ∧
      s.gL = s.gN + s.gW ∧ s.gNB = s.gN / s.gH + 1 ∧ s.gNBINS = s.gP + 1 := by
  obtain ⟨⟨heven, h2, -⟩, ⟨hH1, hHW⟩, ⟨hN, -⟩, -, hP, hL, hNB, hBINS, -⟩ := h.1.2 h.2
  exact ⟨heven, h2, hH1, hHW, hP, by omega, hL, by omega, hNB, hBINS⟩

/-- A frame of a latched geometry ends inside PADDED and OUTACC (R264). -/
theorem frame_in_range {s : State} (h : Latched s) {f : Nat} (hf : f < s.gNB) : f * s.gH + s.gW ≤ s.gL := by
  obtain ⟨-, -, hH1, -, -, -, -, hL, hNB, -⟩ := geometry_of_latched h
  rw [hNB] at hf
  rw [hL]
  exact (frame_fits_iff s.gW hH1).1 hf

theorem loadRowBody_error {cmd : Instr} {c : Nat} {s : State} {r : Fault} (h : loadRowBody cmd c s = .error r) :
    Faulted cmd (c < 2) s r := by
  obtain hread | ⟨x, -, hpure⟩ := (bind_error_iff _ _ _).1 h
  · refine (readReals_error rfl hread).faulted fun hc e he => ?_
    obtain ⟨-, hlt⟩ := mem_indices.1 he
    have : (c + 1) * s.gN ≤ 2 * s.gN := Nat.mul_le_mul_right _ hc
    simp only [State.waveIndex, Buffer.len] at hlt ⊢
    rw [Nat.succ_mul] at this
    omega
  · cases hpure

theorem reflectPadBody_error {cmd : Instr} {s : State} {r : Fault} (h : reflectPadBody cmd s = .error r) :
    Faulted cmd (Latched s) s r := by
  obtain hread | ⟨x, -, h⟩ := (bind_error_iff _ _ _).1 h
  · refine (readReals_error rfl hread).faulted fun hs e he => ?_
    obtain ⟨-, hlt⟩ := mem_indices.1 he
    obtain ⟨-, -, -, -, -, hPN, hL, -⟩ := geometry_of_latched hs
    simp only [Buffer.len]
    omega
  obtain hread | ⟨y, -, hpure⟩ := (bind_error_iff _ _ _).1 h
  · refine (readReals_error rfl hread).faulted fun hs e he => ?_
    obtain ⟨-, hlt⟩ := mem_indices.1 he
    obtain ⟨-, -, -, -, -, hPN, hL, -⟩ := geometry_of_latched hs
    simp only [Buffer.len]
    omega
  · cases hpure

theorem frameFwdBody_error {cmd : Instr} {f : Nat} {s : State} {r : Fault} (h : frameFwdBody cmd f s = .error r) :
    Faulted cmd (Latched s ∧ f < s.gNB) s r := by
  obtain hread | ⟨x, -, h⟩ := (bind_error_iff _ _ _).1 h
  · refine (readReals_error rfl hread).faulted fun ⟨hs, hf⟩ e he => ?_
    obtain ⟨-, hlt⟩ := mem_indices.1 he
    exact hlt.trans_le (frame_in_range hs hf)
  obtain hread | ⟨w, -, hpure⟩ := (bind_error_iff _ _ _).1 h
  · refine (readReals_error rfl hread).faulted fun _ e he => ?_
    obtain ⟨-, hlt⟩ := mem_indices.1 he
    simpa [Buffer.len] using hlt
  · cases hpure

theorem specStoreBody_error {cmd : Instr} {c : Nat} {s : State} {r : Fault} (h : specStoreBody cmd c s = .error r) :
    Faulted cmd True s r := by
  obtain hread | ⟨z, -, hpure⟩ := (bind_error_iff _ _ _).1 h
  · refine (readComplexes_error rfl hread).faulted fun _ e he => ?_
    obtain ⟨b, hb, f, hf, rfl⟩ : ∃ b < s.gNBINS, ∃ f < s.gNB, s.cframeIndex f b = e := by
      simpa [State.binMajor] using he
    exact rowMajor_lt hf hb
  · cases hpure

theorem specLoadBody_error {cmd : Instr} {c : Nat} {s : State} {r : Fault} (h : specLoadBody cmd c s = .error r) :
    Faulted cmd (c < 2) s r := by
  obtain hread | ⟨z, -, hpure⟩ := (bind_error_iff _ _ _).1 h
  · refine (readComplexes_error rfl hread).faulted fun hc e he => ?_
    obtain ⟨f, hf, b, hb, rfl⟩ : ∃ f < s.gNB, ∃ b < s.gNBINS, s.specIndex c b f = e := by
      simpa [State.frameMajor] using he
    exact rowMajor_lt (rowMajor_lt hc hb) hf
  · cases hpure

theorem frameInvBody_error {cmd : Instr} {f : Nat} {s : State} {r : Fault} (h : frameInvBody cmd f s = .error r) :
    Faulted cmd (Latched s ∧ f < s.gNB) s r := by
  obtain hread | ⟨z, -, h⟩ := (bind_error_iff _ _ _).1 h
  · refine (readComplexes_error rfl hread).faulted fun ⟨_, hf⟩ e he => ?_
    obtain ⟨-, hlt⟩ := mem_indices.1 he
    have : (f + 1) * s.gNBINS ≤ s.gNB * s.gNBINS := Nat.mul_le_mul_right _ hf
    rw [Nat.succ_mul] at this
    simp only [State.cframeIndex, Buffer.len] at hlt ⊢
    omega
  obtain hread | ⟨x, -, h⟩ := (bind_error_iff _ _ _).1 h
  · refine (readReals_error rfl hread).faulted fun ⟨hs, hf⟩ e he => ?_
    obtain ⟨-, hlt⟩ := mem_indices.1 he
    exact hlt.trans_le (frame_in_range hs hf)
  obtain hread | ⟨w, -, h⟩ := (bind_error_iff _ _ _).1 h
  · refine (readReals_error rfl hread).faulted fun _ e he => ?_
    obtain ⟨-, hlt⟩ := mem_indices.1 he
    simpa [Buffer.len] using hlt
  obtain hread | ⟨n, -, hpure⟩ := (bind_error_iff _ _ _).1 h
  · refine (readReals_error rfl hread).faulted fun ⟨hs, hf⟩ e he => ?_
    obtain ⟨-, hlt⟩ := mem_indices.1 he
    exact hlt.trans_le (frame_in_range hs hf)
  · cases hpure

theorem rowStoreBody_error {cmd : Instr} {c : Nat} {s : State} {r : Fault} (h : rowStoreBody cmd c s = .error r) :
    Faulted cmd (Latched s) s r := by
  obtain hread | ⟨x, -, hpure⟩ := (bind_error_iff _ _ _).1 h
  · refine (readReals_error rfl hread).faulted fun hs e he => ?_
    obtain ⟨-, hlt⟩ := mem_indices.1 he
    obtain ⟨-, -, -, -, -, -, hL, -⟩ := geometry_of_latched hs
    simp only [Buffer.len]
    omega
  · cases hpure

/-- A loop of frames faults where one of its frames does, in a state with the same geometry and no fewer values. -/
theorem forFrames_error {cmd : Instr} {body : Nat → State → Except Fault State}
    (hfills : ∀ f s t, body f s = .ok t → Fills s t)
    (hbody : ∀ f s r, body f s = .error r → Faulted cmd (Latched s ∧ f < s.gNB) s r) :
    ∀ n start s r, forFrames body start n s = .error r → Faulted cmd (Latched s ∧ start + n ≤ s.gNB) s r := by
  intro n
  induction n with
  | zero => intro start s r h; cases h
  | succ n ih =>
    intro start s r h
    simp only [forFrames] at h
    split at h
    · rename_i r' hr'
      obtain rfl := Except.error.inj h
      exact (hbody _ _ _ hr').of_fills (Fills.refl s) fun ⟨hs, hn⟩ => ⟨hs, by omega⟩
    · rename_i t ht
      have hst := hfills _ _ _ ht
      obtain ⟨-, -, -, -, -, hNB, -⟩ := writesOnly_geometry hst.1
      exact (ih _ _ _ h).of_fills hst fun ⟨hs, hn⟩ => ⟨latched_of_fills hst hs, by omega⟩

theorem stftBody_error {cmd : Instr} {c : Nat} {s : State} {r : Fault} (h : stftBody cmd c s = .error r) :
    Faulted cmd (Latched s ∧ c < 2) s r := by
  obtain h | ⟨s1, h1, h⟩ := (bind_error_iff _ _ _).1 h
  · exact (loadRowBody_error h).of_fills (Fills.refl s) And.right
  have hs1 := loadRowBody_fills h1
  obtain h | ⟨s2, h2, h⟩ := (bind_error_iff _ _ _).1 h
  · exact (reflectPadBody_error h).of_fills hs1 fun ⟨hs, _⟩ => latched_of_fills hs1 hs
  have hs2 := hs1.trans (reflectPadBody_fills h2)
  obtain h | ⟨s3, h3, h⟩ := (bind_error_iff _ _ _).1 h
  · refine (forFrames_error (fun _ _ _ => frameFwdBody_fills) (fun _ _ _ => frameFwdBody_error) _ _ _ _ h).of_fills hs2
      fun ⟨hs, _⟩ => ⟨latched_of_fills hs2 hs, ?_⟩
    obtain ⟨-, -, -, -, -, hNB, -⟩ := writesOnly_geometry hs2.1
    omega
  · exact (specStoreBody_error h).of_fills
      (hs2.trans (forFrames_fills (fun _ _ _ => frameFwdBody_fills) h3)) fun _ => trivial

theorem istftBody_error {cmd : Instr} {c : Nat} {s : State} {r : Fault} (h : istftBody cmd c s = .error r) :
    Faulted cmd (Latched s ∧ c < 2) s r := by
  obtain h | ⟨s1, h1, h⟩ := (bind_error_iff _ _ _).1 h
  · exact (specLoadBody_error h).of_fills (Fills.refl s) And.right
  have hs1 := (specLoadBody_fills h1).trans (accClearBody_fills s1)
  obtain h | ⟨s2, h2, h⟩ := (bind_error_iff _ _ _).1 h
  · refine (forFrames_error (fun _ _ _ => frameInvBody_fills) (fun _ _ _ => frameInvBody_error) _ _ _ _ h).of_fills hs1
      fun ⟨hs, _⟩ => ⟨latched_of_fills hs1 hs, ?_⟩
    obtain ⟨-, -, -, -, -, hNB, -⟩ := writesOnly_geometry hs1.1
    omega
  · have hs2 := hs1.trans (forFrames_fills (fun _ _ _ => frameInvBody_fills) h2)
    exact (rowStoreBody_error h).of_fills hs2 fun ⟨hs, _⟩ => latched_of_fills hs2 hs

/-- A command's operands are in range: its channel is 0 or 1, its frame below NB. -/
def OperandsInRange (i : Instr) (s : State) : Prop :=
  i.wellFormed = true ∧ frameTooLarge i s = false

/-- A body faults only by an element without a value, which is active when geometry and operands are in range. -/
theorem bodyOf_error {i : Instr} {s : State} {r : Fault} (h : bodyOf i s = .error r) :
    Faulted i (Latched s ∧ OperandsInRange i s) s r := by
  have hframe : ∀ {f : Nat}, decide (s.gNB ≤ f) = false → f < s.gNB := fun h => by simpa using h
  have hchannel : ∀ {c : Nat}, channelOk c = true → c < 2 := of_decide_eq_true
  cases i with
  | nop => cases h
  | wsInit => cases h
  | winGen => cases h
  | accClear => cases h
  | loadRow c => exact (loadRowBody_error h).of_fills (Fills.refl s) fun ⟨_, hwf, _⟩ => hchannel hwf
  | reflectPad => exact (reflectPadBody_error h).of_fills (Fills.refl s) And.left
  | frameFwd f => exact (frameFwdBody_error h).of_fills (Fills.refl s) fun ⟨hs, _, hf⟩ => ⟨hs, hframe hf⟩
  | specStore c => exact (specStoreBody_error h).of_fills (Fills.refl s) fun _ => trivial
  | stft c => exact (stftBody_error h).of_fills (Fills.refl s) fun ⟨hs, hwf, _⟩ => ⟨hs, hchannel hwf⟩
  | stftAll =>
    obtain h | ⟨s1, h1, h⟩ := (bind_error_iff _ _ _).1 h
    · exact (stftBody_error h).of_fills (Fills.refl s) fun ⟨hs, _⟩ => ⟨hs, by decide⟩
    · have hs1 := stftBody_fills h1
      exact (stftBody_error h).of_fills hs1 fun ⟨hs, _⟩ => ⟨latched_of_fills hs1 hs, by decide⟩
  | specLoad c => exact (specLoadBody_error h).of_fills (Fills.refl s) fun ⟨_, hwf, _⟩ => hchannel hwf
  | frameInv f => exact (frameInvBody_error h).of_fills (Fills.refl s) fun ⟨hs, _, hf⟩ => ⟨hs, hframe hf⟩
  | rowStore c => exact (rowStoreBody_error h).of_fills (Fills.refl s) And.left
  | istft c => exact (istftBody_error h).of_fills (Fills.refl s) fun ⟨hs, hwf, _⟩ => ⟨hs, hchannel hwf⟩
  | istftAll =>
    obtain h | ⟨s1, h1, h⟩ := (bind_error_iff _ _ _).1 h
    · exact (istftBody_error h).of_fills (Fills.refl s) fun ⟨hs, _⟩ => ⟨hs, by decide⟩
    · have hs1 := istftBody_fills h1
      exact (istftBody_error h).of_fills hs1 fun ⟨hs, _⟩ => ⟨latched_of_fills hs1 hs, by decide⟩

/-! ### The statements -/

/-- A command that faults passed its checks, and its body faulted. -/
theorem exec_fault_iff (i : Instr) (s : State) (r : Fault) :
    exec i s = .fault r ↔ commandError i s = none ∧ bodyOf i s = .error r := by
  rw [exec_eq_execute, execute_fault_iff]

/-- Settles O15: an element without a value reads as none. -/
theorem faultsNameAnUnspecifiedElement : Obligations.FaultsNameAnUnspecifiedElement := by
  unfold Obligations.FaultsNameAnUnspecifiedElement
  refine ⟨fun i s q => exec_eq_execute i s ▸ execute_not_refused _ _ _ _, fun i s r h => ?_⟩
  obtain ⟨-, hbody⟩ := (exec_fault_iff i s r).1 h
  obtain ⟨b, e, hr, hno, -⟩ := bodyOf_error hbody
  refine ⟨b, e, hr, ?_⟩
  rcases elemSize_cases b with hb | hb
  · rw [← realAt_isSome_iff hb] at hno
    exact .inl ⟨hb, by simpa using hno⟩
  · rw [← complexAt_isSome_iff hb] at hno
    exact .inr ⟨hb, by simpa using hno⟩

/-- With every active element specified, an active element holds a value. -/
theorem holds_of_allSpecified {s : State} (h : s.AllSpecified) {b : Buffer} {e : Nat} (he : e < b.len s) : Holds s b e :=
  fun _ hj => h b _ (covers_element (Nat.zero_le e) (by omega) hj)

/-- A command that reads a buffer needs an active geometry (R173). -/
theorem needsWs_of_error {i : Instr} {s : State} {r : Fault} (h : bodyOf i s = .error r) : needsWs i = true := by
  cases i with
  | nop => cases h
  | wsInit => cases h
  | _ => rfl

/-- Settles O16: a fault would name an active element without a value. -/
theorem specifiedBuffersNeverFault : Obligations.SpecifiedBuffersNeverFault := by
  unfold Obligations.SpecifiedBuffersNeverFault
  intro i s hwf hg hall
  cases h : exec i s with
  | next t => exact ⟨t, rfl⟩
  | refused q => exact absurd h (exec_eq_execute i s ▸ execute_not_refused _ _ _ _)
  | fault r =>
    obtain ⟨hchecks, hbody⟩ := (exec_fault_iff i s r).1 h
    obtain ⟨hws, -, hframe, -⟩ := commandError_none hchecks
    obtain ⟨b, e, -, hno, he⟩ := bodyOf_error hbody
    exact absurd (holds_of_allSpecified hall (he ⟨⟨hg, hws (needsWs_of_error hbody)⟩, hwf, hframe⟩)) hno

end Sys2Proof.Proofs.Faults
end

section
/-! WIN_GEN (40_setup.md R224 to R226): what an overlap-add leaves at each position, NORM as a fold over the frames, and the
two arrays the command writes. -/

namespace Sys2Proof.Proofs.Arrays

open Sys2Proof.Machine Sys2Proof.Proofs.Elements Sys2Proof.Proofs.Execution Sys2Proof.Proofs.Faults

/-! ### Overlap-add -/

section
variable {α : Type} (A : NumSystem α)

@[simp] theorem overlapAdd_length (acc : List α) (start : Nat) (terms : List α) :
    (overlapAdd A acc start terms).length = acc.length := by
  simp only [overlapAdd, List.length_append, List.length_take, List.length_zipWith, List.length_drop]
  omega

/-- A position the terms cover gains its term (R225, R312). -/
theorem overlapAdd_inside {acc terms : List α} {start k : Nat} {v w : α} (hk : start ≤ k) (hv : acc[k]? = some v)
    (hw : terms[k - start]? = some w) : (overlapAdd A acc start terms)[k]? = some (A.add v w) := by
  have hacc := (List.getElem?_eq_some_iff.1 hv).1
  have hterm := (List.getElem?_eq_some_iff.1 hw).1
  unfold overlapAdd
  rw [List.append_assoc, List.getElem?_append_right (by rw [List.length_take]; omega), List.getElem?_append_left,
    List.getElem?_zipWith, List.getElem?_drop, List.length_take, Nat.min_eq_left (by omega)]
  · rw [Nat.add_sub_cancel' hk, hv, hw]
  · rw [List.length_zipWith, List.length_drop, List.length_take]
    omega

/-- A position the terms do not cover keeps its value. -/
theorem overlapAdd_outside {acc terms : List α} {start k : Nat} (hk : k < start ∨ start + terms.length ≤ k) :
    (overlapAdd A acc start terms)[k]? = acc[k]? := by
  by_cases hacc : k < acc.length
  · unfold overlapAdd
    rcases hk with hk | hk
    · rw [List.append_assoc, List.getElem?_append_left (by rw [List.length_take]; omega), List.getElem?_take, if_pos hk]
    · have hlen : (acc.take start ++ List.zipWith A.add (acc.drop start) terms).length = start + terms.length := by
        simp only [List.length_append, List.length_take, List.length_zipWith, List.length_drop]
        omega
      rw [List.getElem?_append_right (by omega), hlen, List.getElem?_drop]
      congr 1
      omega
  · rw [List.getElem?_eq_none (by rw [overlapAdd_length]; omega), List.getElem?_eq_none (by omega)]

/-- What position k holds after the terms `T f` of the frames f have been added in turn, from v on (R225, R312). -/
def foldAt (W H : Nat) (T : Nat → Nat → α) (k : Nat) (v : α) (fs : List Nat) : α :=
  fs.foldl (fun v f => if f * H ≤ k ∧ k < f * H + W then A.add v (T f (k - f * H)) else v) v

/-- Adding the terms of frames one after the other adds at each position those that cover it. -/
theorem foldl_overlapAdd_getElem? {W H : Nat} {terms : Nat → List α} {T : Nat → Nat → α} {k : Nat} {fs : List Nat}
    (hlen : ∀ f ∈ fs, (terms f).length = W) (hT : ∀ f ∈ fs, ∀ i, i < W → (terms f)[i]? = some (T f i)) {acc : List α}
    {v : α} (hv : acc[k]? = some v) :
    (fs.foldl (fun acc f => overlapAdd A acc (f * H) (terms f)) acc)[k]? = some (foldAt A W H T k v fs) := by
  induction fs generalizing acc v with
  | nil => exact hv
  | cons f fs ih =>
    refine ih (fun g hg => hlen g (List.mem_cons_of_mem _ hg)) (fun g hg => hT g (List.mem_cons_of_mem _ hg)) ?_
    have hf := hlen f List.mem_cons_self
    beta_reduce
    split
    · rename_i hk
      exact overlapAdd_inside A hk.1 hv (hT f List.mem_cons_self _ (by omega))
    · rename_i hk
      rw [overlapAdd_outside A (by omega), hv]

@[simp] theorem foldl_overlapAdd_length (H : Nat) (terms : Nat → List α) (fs : List Nat) (acc : List α) :
    (fs.foldl (fun acc f => overlapAdd A acc (f * H) (terms f)) acc).length = acc.length := by
  induction fs generalizing acc with
  | nil => rfl
  | cons f fs ih => rw [List.foldl_cons, ih, overlapAdd_length]

@[simp] theorem normArray_length (win : List α) (L H NB : Nat) : (normArray A win L H NB).length = L := by
  simp [normArray]

/-- NORM[k] is the fold of the window squares that land on k, from +0 in increasing frame order (R225). -/
theorem normArray_getElem? {win : List α} {W L H NB k : Nat} {w : Nat → α} (hlen : win.length = W)
    (hw : ∀ i, i < W → win[i]? = some (w i)) (hk : k < L) :
    (normArray A win L H NB)[k]? =
      some (foldAt A W H (fun _ i => A.mul (w i) (w i)) k (A.ofNat 0) (List.range NB)) := by
  refine foldl_overlapAdd_getElem? A (fun _ _ => by rw [List.length_map, hlen]) (fun f _ i hi => ?_) ?_
  · rw [List.getElem?_map, hw i hi]
    rfl
  · rw [List.getElem?_replicate, if_pos hk]

@[simp] theorem windowArray_length (W : Nat) : (windowArray A W).length = W := by
  simp [windowArray]

theorem windowArray_getElem? {W i : Nat} (hi : i < W) : (windowArray A W)[i]? = some (A.window W i) := by
  simp [windowArray, hi]

end

@[simp] theorem state_windowArray_length (s : State) : s.windowArray.length = s.gW := windowArray_length _ _

@[simp] theorem state_normArray_length (s : State) : s.normArray.length = s.gL := normArray_length _ _ _ _ _

theorem state_windowArray_getElem? (s : State) {i : Nat} (hi : i < s.gW) :
    s.windowArray[i]? = some (windowOf s.build s.gW i) := windowArray_getElem? _ hi

/-- NORM[k] of the active geometry (R225). -/
theorem state_normArray_getElem? (s : State) {k : Nat} (hk : k < s.gL) :
    s.normArray[k]? = some (foldAt binary32 s.gW s.gH
      (fun _ i => numMul (windowOf s.build s.gW i) (windowOf s.build s.gW i)) k (numOfNat 0) (List.range s.gNB)) :=
  normArray_getElem? binary32 (state_windowArray_length s) (fun _ => state_windowArray_getElem? s) hk

/-! ### The two writes -/

/-- Active ranges of two buffers have no address in common. -/
theorem inBuffer_disjoint {s : State} (hs : Latched s) {b b' : Buffer} (hb : b ≠ b') {a : Nat} (h : s.InBuffer b a)
    (h' : s.InBuffer b' a) : False :=
  covers_disjoint hb h h' (by rw [Nat.zero_add]; exact len_fits hs.1 hs.2 b)
    (by rw [Nat.zero_add]; exact len_fits hs.1 hs.2 b')

/-- The bytes outside WINDOW and NORM are as before WIN_GEN (R226). -/
theorem byteAt_winGen (s : State) {a : Nat} (h1 : ¬ s.InBuffer .window a) (h2 : ¬ s.InBuffer .norm a) :
    (winGenBody s).byteAt a = s.byteAt a := by
  refine (byteAt_writeReals_of_not _ rfl _ _ _ _ (by rw [state_normArray_length]; exact h2)).trans ?_
  exact byteAt_writeReals_of_not _ rfl _ _ _ _ (by rw [state_windowArray_length]; exact h1)

/-- After WIN_GEN the arrays are in their buffers (R224, R225). -/
theorem winGen_arrays {s : State} (hs : Latched s) :
    (winGenBody s).ReadsAs .window 0 s.windowArray ∧ (winGenBody s).ReadsAs .norm 0 s.normArray := by
  refine ⟨?_, realAt_writeReals .norm rfl _ _ _⟩
  refine readsAs_of_bytes rfl (fun a ha => ?_) (realAt_writeReals .window rfl 0 s.windowArray s)
  refine byteAt_writeReals_of_not _ rfl _ _ _ _ fun h => ?_
  rw [state_normArray_length] at h
  rw [state_windowArray_length] at ha
  exact inBuffer_disjoint hs (by decide) ha h

/-- +0 is the number of 0. -/
theorem numOfNat_zero : numOfNat 0 = 0x00000000#32 := by decide

/-- WIN_GEN's checks pass with an active geometry (R173). -/
theorem commandError_winGen {s : State} (h : s.wsValid = true) : commandError .winGen s = none :=
  commandError_of_ready (by decide) h (fun h => by cases h) rfl

/-- Settles O19: the arrays' elements, read back, and the frame of the two writes. -/
theorem winGenFillsArrays : Obligations.WinGenFillsArrays := by
  unfold Obligations.WinGenFillsArrays
  intro s hv hg
  obtain ⟨hwin, hnorm⟩ := winGen_arrays (s := s) ⟨hg, hv⟩
  refine ⟨_, exec_of_body (commandError_winGen hv) rfl, rfl, fun i hi => ?_, fun k hk => ?_, fun a h1 h2 => ?_⟩
  · have := hwin i (by rwa [state_windowArray_length])
    rw [state_windowArray_getElem? s hi, Nat.zero_add] at this
    exact this
  · have := hnorm k (by rwa [state_normArray_length])
    rw [state_normArray_getElem? s hk, Nat.zero_add, numOfNat_zero] at this
    exact this
  · exact byteAt_winGen s h1 h2

end Sys2Proof.Proofs.Arrays
end

section
/-! Invariants (10_state.md R70, 40_setup.md R226): the part of a state its invariants speak of, the induction over one step,
the bytes each command writes, and from these the statements about every step. -/

namespace Sys2Proof.Proofs.Invariants

open Sys2Proof.Machine Sys2Proof.Proofs.Encoding Sys2Proof.Proofs.HostPort Sys2Proof.Proofs.Execution
  Sys2Proof.Proofs.Elements Sys2Proof.Proofs.Faults Sys2Proof.Proofs.Arrays

/-! ### Data and control -/

/-- The state with the control fields of `x` (CFG, interrupts, errors, LAST_OP, pending, the model's own) and the data of
`s` (geometry, flags, buffers, build). The command bodies work on the data alone, WS_INIT's reading of CFG apart. -/
def graft (x s : State) : State :=
  { x with
    wsValid := s.wsValid, winValid := s.winValid, actWinLen := s.actWinLen, actHop := s.actHop
    actSigLen := s.actSigLen, actEps := s.actEps, padLen := s.padLen, paddedLen := s.paddedLen
    nbFrames := s.nbFrames, nbBins := s.nbBins, fwdScale := s.fwdScale, invScale := s.invScale
    mem := s.mem, build := s.build }

theorem succeed_eq_graft (s : State) : succeed s = graft (succeed s) s := rfl

/-- An accepted word of the Host lies in the active part of WAVE or SPEC, while nothing is pending (R123, R131, R132). -/
def HostWord (s : State) (b : Buffer) (off : Nat) : Prop :=
  b.hostWritable = true ∧ s.wsValid = true ∧ s.pending = none ∧ off % 4 = 0 ∧ off < b.len s * b.elemSize

/-- A CSR write leaves the data alone, or is the soft reset (R54). -/
theorem csrWrite_cases (off : Nat) (v : Word) (s : State) :
    csrWrite off v s = graft (csrWrite off v s) s ∨
    (off = 0x008 ∧ v.getLsbD 0 = true ∧ csrWrite off v s = resetHardware s) := by
  by_cases hreset : off = 0x008 ∧ v.getLsbD 0 = true
  · obtain ⟨rfl, hv⟩ := hreset
    exact .inr ⟨rfl, hv, if_pos hv⟩
  · left
    unfold csrWrite
    split
    case h_1 =>
      rw [writeCtrl, if_neg fun hv => hreset ⟨rfl, hv⟩]
      rfl
    all_goals rfl

/-- The word an accepted write outside the CSR file writes (R123, R131, R132). -/
theorem hostWord_of_accepted {a : Word} {n : Nat} {v : Word} {s : State} (hok : busError (.write a n v) s = false)
    (hregion : regionOf a.toNat ≠ 0) : ∃ b off, HostWord s b off ∧ a.toNat = b.base + off := by
  have hbad : ¬ BadRequest (.write a n v) s := by rw [← busError_iff, hok]; simp
  simp only [BadRequest, BusReq.bytes, BusReq.addr, BusReq.isWrite, not_or, not_and, ne_eq, not_not] at hbad
  obtain ⟨-, h4, hB, -, hwindow⟩ := hbad
  simp only [regionOf] at hregion
  obtain ⟨hv, hp, hwrite, hlen⟩ := hwindow (by omega)
  cases hb : bufferOfRegion (a.toNat / 2 ^ 28) with
  | none =>
    have := (bufferOfRegion_eq_none_iff hregion).1 hb
    omega
  | some b =>
    have hreg := (bufferOfRegion_eq_some_iff _ _).1 hb
    refine ⟨b, a.toNat % 2 ^ 28, ⟨?_, by simpa using hv, by simpa using hp, by omega, ?_⟩, ?_⟩
    · rw [← Bool.not_eq_false, hostWritable_eq_false_iff]
      have := hwrite trivial
      omega
    · by_contra hle
      exact hlen ⟨b, hreg, by omega⟩
    · simp only [Buffer.base]
      omega

/-- What a transaction does to the data: nothing, the soft reset, or the write of a word of WAVE or SPEC. -/
theorem transact_data_cases (r : BusReq) (s : State) :
    transact r s = graft (transact r s) s ∨
    ((Turn.host r).isReset = true ∧ transact r s = respond 0x00000000#32 (resetHardware s)) ∨
    (∃ b off v, HostWord s b off ∧
      transact r s = respond 0x00000000#32 { s with mem := s.mem.writeWords (b.base + off) [v] }) := by
  obtain ⟨-, h⟩ | ⟨hok, ⟨a, n, -, h⟩ | ⟨a, n, v, rfl, h⟩⟩ := transact_cases r s
  · left; rw [h]; rfl
  · obtain ⟨w, m, hframe⟩ := acceptRead_frame a.toNat s
    left; rw [h, hframe]; rfl
  · by_cases hregion : regionOf a.toNat = 0
    · rw [acceptWrite, if_pos hregion] at h
      rw [h]
      obtain hdata | ⟨hoff, hv, hreset⟩ := csrWrite_cases (offsetOf a.toNat) v s
      · left; rw [hdata]; rfl
      · right; left
        have ha : a = 0x00000008#32 := by
          apply BitVec.eq_of_toNat_eq
          simp only [regionOf, offsetOf] at hregion hoff
          simp; omega
        exact ⟨by simp only [Turn.isReset, ha, hv]; rfl, by rw [hreset]⟩
    · right; right
      obtain ⟨b, off, hword, ha⟩ := hostWord_of_accepted hok hregion
      refine ⟨b, off, v, hword, ?_⟩
      rw [h, acceptWrite, if_neg hregion, ha]

/-! ### The induction over one step -/

/-- A property of the data that the bodies of accepted commands, the Host's words and the reset keep is kept by every
step. -/
theorem step_keeps {P : State → Prop} (hcontrol : ∀ x s, P s → P (graft x s))
    (hbody : ∀ i s u, i.wellFormed = true → commandError i s = none → bodyOf i s = .ok u → P s → P u)
    (hword : ∀ b off v s, HostWord s b off → P s → P { s with mem := s.mem.writeWords (b.base + off) [v] })
    (hreset : ∀ s, P s → P (resetHardware s)) {s t : State} (hs : P s) (h : step s = .next t) : P t := by
  have hturns : ∀ ts, P { s with turns := ts } := fun ts => hcontrol { s with turns := ts } s hs
  obtain ⟨u, hu, hcase⟩ | ⟨r, ts, -, rfl⟩ | ⟨ts, -, rfl⟩ := step_next_cases h
  · have hPu : P u := by
      rcases hu with ⟨rfl, -⟩ | ⟨ts, -, rfl⟩
      · exact hs
      · exact hturns ts
    rcases hcase with ⟨-, rfl⟩ | ⟨p, -, hrun⟩
    · exact hPu
    obtain ⟨-, rfl⟩ | ⟨i, hi, hexec⟩ := executeWord_next_cases hrun
    · exact hcontrol (fail p.word .illegalCmd u) u hPu
    obtain ⟨e, -, rfl⟩ | ⟨hchecks, v, hv, rfl⟩ := (exec_next_iff i u t).1 hexec
    · exact hcontrol (fail (encode i) e u) u hPu
    · exact hcontrol (succeed v) v (hbody i u v (wellFormed_of_decode hi) hchecks hv hPu)
  · obtain hdata | ⟨-, hr⟩ | ⟨b, off, v, hw, hr⟩ := transact_data_cases r { s with turns := ts }
    · rw [hdata]
      exact hcontrol _ _ (hturns ts)
    · rw [hr]
      exact hcontrol (respond 0#32 (resetHardware { s with turns := ts })) _ (hreset _ (hturns ts))
    · rw [hr]
      exact hcontrol (respond 0#32 { s with turns := ts }) _ (hword b off v _ hw (hturns ts))
  · exact hreset _ (hturns ts)

/-! ### Flags and storage -/

/-- The flags stay coherent where the geometry is kept. -/
theorem flagsCoherent_of_sameGeometry {s t : State} (hsame : SameGeometry s t) (hv : t.wsValid = s.wsValid)
    (hwin : t.winValid = true → t.wsValid = true) (hs : s.FlagsCoherent) : t.FlagsCoherent := by
  obtain ⟨hW, hH, hN, heps, hP, hL, hNB, hBINS, hF, hI, -⟩ := hsame
  refine ⟨hwin, fun h => ?_⟩
  rw [hW, hH, hN, heps, hP, hL, hNB, hBINS, hF, hI]
  exact hs.2 (hv ▸ h)

theorem bodyOf_keeps_flags {i : Instr} {s u : State} (hchecks : commandError i s = none) (h : bodyOf i s = .ok u)
    (hs : s.FlagsCoherent) : u.FlagsCoherent := by
  by_cases hws : i = .wsInit
  · subst hws
    obtain rfl : wsInitBody s = u := Except.ok.inj h
    exact ⟨fun _ => rfl, fun h => by cases h⟩
  obtain ⟨hsame, hv, hwin⟩ := bodyOf_keeps_geometry hws h
  refine flagsCoherent_of_sameGeometry hsame hv (fun hu => ?_) hs
  rw [hv]
  by_cases hgen : i = .winGen
  · subst hgen
    exact (commandError_none hchecks).1 rfl
  · exact hs.1 ((hwin hgen).symm.trans hu)

theorem flagsCoherent_reset (b : Config.Build) (s : State) :
    State.FlagsCoherent { State.resetOf b with turns := s.turns, response := s.response, draws := s.draws } := by
  simp [State.FlagsCoherent, State.resetOf]

/-- Settles O37: the flags are data; BUSY is bit 0 of STATUS. -/
theorem flagInvariantsAreKept : Obligations.FlagInvariantsAreKept := by
  unfold Obligations.FlagInvariantsAreKept
  refine ⟨fun s t hs h => ?_, fun s => (status_fields s).1⟩
  exact step_keeps (P := State.FlagsCoherent) (fun _ _ h => h) (fun i s u _ hc hb => bodyOf_keeps_flags hc hb)
    (fun _ _ _ _ _ h => h) (fun s _ => flagsCoherent_reset s.build s) hs h

theorem bodyOf_keeps_canonical {i : Instr} {s u : State} (h : bodyOf i s = .ok u) (hs : s.MemCanonical) :
    u.MemCanonical := by
  by_cases hws : i = .wsInit
  · subst hws
    obtain rfl : wsInitBody s = u := Except.ok.inj h
    rfl
  by_cases hgen : i = .winGen
  · subst hgen
    obtain rfl : winGenBody s = u := Except.ok.inj h
    exact wf_writeWords _ _ (wf_writeWords _ _ hs)
  exact (bodyOf_writesOnly hws hgen h).2 hs

/-- Settles O38: splices keep the canonical form. -/
theorem storageStaysCanonical : Obligations.StorageStaysCanonical := by
  unfold Obligations.StorageStaysCanonical
  exact fun s t hs h => step_keeps (P := State.MemCanonical) (fun _ _ h => h)
    (fun _ _ _ _ _ hb => bodyOf_keeps_canonical hb) (fun _ _ _ _ _ h => wf_writeWords _ _ h) (fun _ _ => rfl) hs h

/-! ### The bytes of a driver -/

/-- The ranges of the body of FRAME_FWD lie in the active buffers. -/
theorem byteAt_frameFwd_active {cmd : Instr} {f : Nat} {s t : State} (hf : f < s.gNB)
    (h : frameFwdBody cmd f s = .ok t) {a : Nat} (h1 : ¬ s.InBuffer .windowed a) (h2 : ¬ s.InBuffer .cframes a) :
    t.byteAt a = s.byteAt a := by
  refine byteAt_frameFwd h h1 fun hcov => h2 (covers_mono hcov (Nat.zero_le _) ?_)
  have : (f + 1) * s.gNBINS ≤ s.gNB * s.gNBINS := Nat.mul_le_mul_right _ hf
  rw [Nat.succ_mul] at this
  simpa [Buffer.len] using this

@[inherit_doc byteAt_frameFwd_active]
theorem byteAt_frameInv_active {cmd : Instr} {f : Nat} {s t : State} (hs : Latched s) (hf : f < s.gNB)
    (h : frameInvBody cmd f s = .ok t) {a : Nat} (h1 : ¬ s.InBuffer .cframes a) (h2 : ¬ s.InBuffer .windowed a)
    (h3 : ¬ s.InBuffer .outacc a) : t.byteAt a = s.byteAt a := by
  refine byteAt_frameInv h (fun hcov => h1 (covers_mono hcov (Nat.zero_le _) ?_)) h2
    fun hcov => h3 (covers_mono hcov (Nat.zero_le _) ?_)
  · have : (f + 1) * s.gNBINS ≤ s.gNB * s.gNBINS := Nat.mul_le_mul_right _ hf
    rw [Nat.succ_mul] at this
    simpa [Buffer.len] using this
  · simpa [Buffer.len] using frame_in_range hs hf

/-- The active bytes of a buffer are those of any state with the same geometry. -/
theorem inBuffer_of_writesOnly {s t : State} (h : WritesOnly s t) (b : Buffer) (a : Nat) :
    t.InBuffer b a ↔ s.InBuffer b a := by
  unfold State.InBuffer
  rw [writesOnly_len h b]

/-- A loop of frames leaves a byte alone that each of its frames leaves alone. -/
theorem byteAt_forFrames {body : Nat → State → Except Fault State} (hfills : ∀ f s t, body f s = .ok t → Fills s t)
    {a n : Nat} {s t : State}
    (hbody : ∀ f u v, f < s.gNB → Fills s u → body f u = .ok v → v.byteAt a = u.byteAt a) {start : Nat}
    (hn : start + n ≤ s.gNB) (h : forFrames body start n s = .ok t) : t.byteAt a = s.byteAt a := by
  suffices key : ∀ n start u, start + n ≤ s.gNB → Fills s u → forFrames body start n u = .ok t →
      t.byteAt a = u.byteAt a from key n start s hn (Fills.refl s) h
  intro n
  induction n with
  | zero =>
    intro start u _ _ h
    obtain rfl := Except.ok.inj h
    rfl
  | succ n ih =>
    intro start u hn hu h
    simp only [forFrames] at h
    split at h
    · cases h
    · rename_i v hv
      rw [ih (start + 1) v (by omega) (hu.trans (hfills _ _ _ hv)) h, hbody start u v (by omega) hu hv]

/-- The bytes STFT leaves alone (R360). -/
theorem byteAt_stft {cmd : Instr} {c : Nat} {s t : State} (hs : Latched s) (h : stftBody cmd c s = .ok t) {a : Nat}
    (h1 : ¬ s.InBuffer .padded a) (h2 : ¬ s.InBuffer .padStart a) (h3 : ¬ s.InBuffer .padEnd a)
    (h4 : ¬ s.InBuffer .windowed a) (h5 : ¬ s.InBuffer .cframes a)
    (h6 : ¬ Buffer.spec.Covers (c * s.gNBINS * s.gNB) (s.gNBINS * s.gNB) a) : t.byteAt a = s.byteAt a := by
  obtain ⟨s1, hload, s2, hpad, s3, hframes, hstore⟩ := (stftBody_ok_iff _ _ _ _).1 h
  obtain ⟨-, -, -, -, -, -, hL, -⟩ := geometry_of_latched hs
  have f1 := loadRowBody_fills hload
  have f2 := f1.trans (reflectPadBody_fills hpad)
  have f3 := f2.trans (forFrames_fills (fun _ _ _ => frameFwdBody_fills) hframes)
  obtain ⟨-, -, hN1, hP1, -⟩ := writesOnly_geometry f1.1
  obtain ⟨-, -, -, -, -, hNB2, -⟩ := writesOnly_geometry f2.1
  obtain ⟨-, -, -, -, -, hNB3, hBINS3⟩ := writesOnly_geometry f3.1
  have hcentre : ¬ Buffer.padded.Covers s.gP s.gN a := fun hcov => h1 (covers_mono hcov (by omega) (by
    simp only [Buffer.len]; omega))
  have hleft : ¬ Buffer.padded.Covers 0 s.gP a := fun hcov => h1 (covers_mono hcov (by omega) (by
    simp only [Buffer.len]; omega))
  have hright : ¬ Buffer.padded.Covers (s.gP + s.gN) s.gP a := fun hcov => h1 (covers_mono hcov (by omega) (by
    simp only [Buffer.len]; omega))
  calc t.byteAt a = s3.byteAt a := byteAt_specStore hstore (by rwa [hBINS3, hNB3])
    _ = s2.byteAt a := byteAt_forFrames (fun _ _ _ => frameFwdBody_fills) (fun f u v hf hu hv =>
        byteAt_frameFwd_active (by rwa [(writesOnly_geometry hu.1).2.2.2.2.2.1]) hv
          (by rwa [inBuffer_of_writesOnly (f2.trans hu).1]) (by rwa [inBuffer_of_writesOnly (f2.trans hu).1]))
        (by omega) hframes
    _ = s1.byteAt a := byteAt_reflectPad hpad (by rwa [hP1]) (by rwa [hP1]) (by rwa [hP1]) (by rwa [hP1, hN1])
    _ = s.byteAt a := byteAt_loadRow hload hcentre

/-- The bytes ISTFT leaves alone (R362). -/
theorem byteAt_istft {cmd : Instr} {c : Nat} {s t : State} (hs : Latched s) (h : istftBody cmd c s = .ok t) {a : Nat}
    (h1 : ¬ s.InBuffer .cframes a) (h2 : ¬ s.InBuffer .windowed a) (h3 : ¬ s.InBuffer .outacc a)
    (h4 : ¬ Buffer.wave.Covers (c * s.gN) s.gN a) : t.byteAt a = s.byteAt a := by
  obtain ⟨s1, hload, s2, hframes, hstore⟩ := (istftBody_ok_iff _ _ _ _).1 h
  have f1 := specLoadBody_fills hload
  have f2 := f1.trans (accClearBody_fills s1)
  have f3 := f2.trans (forFrames_fills (fun _ _ _ => frameInvBody_fills) hframes)
  obtain ⟨-, -, -, -, hL1, -⟩ := writesOnly_geometry f1.1
  obtain ⟨-, -, -, -, -, hNB2, -⟩ := writesOnly_geometry f2.1
  obtain ⟨-, -, hN3, -⟩ := writesOnly_geometry f3.1
  calc t.byteAt a = s2.byteAt a := byteAt_rowStore hstore (by rwa [hN3])
    _ = (accClearBody s1).byteAt a := byteAt_forFrames (fun _ _ _ => frameInvBody_fills) (fun f u v hf hu hv =>
        byteAt_frameInv_active (latched_of_fills (f2.trans hu) hs)
          (by rwa [(writesOnly_geometry hu.1).2.2.2.2.2.1]) hv
          (by rwa [inBuffer_of_writesOnly (f2.trans hu).1]) (by rwa [inBuffer_of_writesOnly (f2.trans hu).1])
          (by rwa [inBuffer_of_writesOnly (f2.trans hu).1])) (by omega) hframes
    _ = s1.byteAt a := byteAt_accClear s1 (by rw [hL1]; exact h3)
    _ = s.byteAt a := byteAt_specLoad hload h1

/-! ### The bytes of a command -/

/-- No active buffer but WINDOW and NORM has the byte. -/
def OutsideWork (s : State) (a : Nat) : Prop := ∀ b : Buffer, b ≠ .window → b ≠ .norm → ¬ s.InBuffer b a

theorem outsideWork_of_fills {s t : State} (h : Fills s t) {a : Nat} (ha : OutsideWork s a) : OutsideWork t a :=
  fun b h1 h2 hin => ha b h1 h2 ((inBuffer_of_writesOnly h.1 b a).1 hin)

/-- The ranges of one channel lie in SPEC and in WAVE. -/
theorem channel_ranges {s : State} {c : Nat} (hc : c < 2) {a : Nat} (ha : OutsideWork s a) :
    ¬ Buffer.spec.Covers (c * s.gNBINS * s.gNB) (s.gNBINS * s.gNB) a ∧ ¬ Buffer.wave.Covers (c * s.gN) s.gN a := by
  constructor
  · refine fun hcov => ha .spec (by decide) (by decide) (covers_mono hcov (Nat.zero_le _) ?_)
    have : (c + 1) * (s.gNBINS * s.gNB) ≤ 2 * (s.gNBINS * s.gNB) := Nat.mul_le_mul_right _ hc
    rw [Nat.succ_mul] at this
    simpa [Buffer.len, Nat.mul_assoc] using this
  · refine fun hcov => ha .wave (by decide) (by decide) (covers_mono hcov (Nat.zero_le _) ?_)
    have : (c + 1) * s.gN ≤ 2 * s.gN := Nat.mul_le_mul_right _ hc
    rw [Nat.succ_mul] at this
    simpa [Buffer.len] using this

/-- The ranges of PADDED that LOAD_ROW and REFLECT_PAD write lie in it, and that of OUTACC does. -/
theorem padded_ranges {s : State} (hs : Latched s) {a : Nat} (ha : OutsideWork s a) :
    ¬ Buffer.padded.Covers s.gP s.gN a ∧ ¬ Buffer.padded.Covers 0 s.gP a ∧
      ¬ Buffer.padded.Covers (s.gP + s.gN) s.gP a := by
  obtain ⟨-, -, -, -, -, -, hL, -⟩ := geometry_of_latched hs
  refine ⟨fun hcov => ?_, fun hcov => ?_, fun hcov => ?_⟩ <;>
    exact ha .padded (by decide) (by decide) (covers_mono hcov (Nat.zero_le _) (by simp only [Buffer.len]; omega))

theorem byteAt_stft_of_outside {cmd : Instr} {c : Nat} {s t : State} (hs : Latched s) (hc : c < 2)
    (h : stftBody cmd c s = .ok t) {a : Nat} (ha : OutsideWork s a) : t.byteAt a = s.byteAt a :=
  byteAt_stft hs h (ha _ (by decide) (by decide)) (ha _ (by decide) (by decide)) (ha _ (by decide) (by decide))
    (ha _ (by decide) (by decide)) (ha _ (by decide) (by decide)) (channel_ranges hc ha).1

theorem byteAt_istft_of_outside {cmd : Instr} {c : Nat} {s t : State} (hs : Latched s) (hc : c < 2)
    (h : istftBody cmd c s = .ok t) {a : Nat} (ha : OutsideWork s a) : t.byteAt a = s.byteAt a :=
  byteAt_istft hs h (ha _ (by decide) (by decide)) (ha _ (by decide) (by decide)) (ha _ (by decide) (by decide))
    (channel_ranges hc ha).2

/-- A command other than WS_INIT and WIN_GEN writes inside the active buffers, and neither WINDOW nor NORM (R74, R75). -/
theorem bodyOf_byteAt {i : Instr} {s u : State} (hs : needsWs i = true → Latched s) (hops : OperandsInRange i s)
    (hws : i ≠ .wsInit) (hgen : i ≠ .winGen) (h : bodyOf i s = .ok u) {a : Nat} (ha : OutsideWork s a) :
    u.byteAt a = s.byteAt a := by
  have hframe : ∀ {f : Nat}, decide (s.gNB ≤ f) = false → f < s.gNB := fun h => by simpa using h
  have hchannel : ∀ {c : Nat}, channelOk c = true → c < 2 := of_decide_eq_true
  obtain ⟨hwf, hf⟩ := hops
  cases i with
  | nop =>
    obtain rfl : s = u := Except.ok.inj h
    rfl
  | wsInit => exact absurd rfl hws
  | winGen => exact absurd rfl hgen
  | loadRow c => exact byteAt_loadRow h (padded_ranges (hs rfl) ha).1
  | reflectPad =>
    obtain ⟨-, hleft, hright⟩ := padded_ranges (hs rfl) ha
    exact byteAt_reflectPad h (ha _ (by decide) (by decide)) (ha _ (by decide) (by decide)) hleft hright
  | frameFwd f =>
    exact byteAt_frameFwd_active (hframe hf) h (ha _ (by decide) (by decide)) (ha _ (by decide) (by decide))
  | specStore c => exact byteAt_specStore h (channel_ranges (hchannel hwf) ha).1
  | stft c => exact byteAt_stft_of_outside (hs rfl) (hchannel hwf) h ha
  | stftAll =>
    obtain ⟨v, h1, h2⟩ := (stftAllBody_ok_iff _ _ _).1 h
    have f1 := stftBody_fills h1
    exact (byteAt_stft_of_outside (latched_of_fills f1 (hs rfl)) (by decide) h2 (outsideWork_of_fills f1 ha)).trans
      (byteAt_stft_of_outside (hs rfl) (by decide) h1 ha)
  | specLoad c => exact byteAt_specLoad h (ha .cframes (by decide) (by decide))
  | accClear =>
    obtain rfl : accClearBody s = u := Except.ok.inj h
    exact byteAt_accClear s (ha .outacc (by decide) (by decide))
  | frameInv f =>
    exact byteAt_frameInv_active (hs rfl) (hframe hf) h (ha _ (by decide) (by decide)) (ha _ (by decide) (by decide))
      (ha _ (by decide) (by decide))
  | rowStore c => exact byteAt_rowStore h (channel_ranges (hchannel hwf) ha).2
  | istft c => exact byteAt_istft_of_outside (hs rfl) (hchannel hwf) h ha
  | istftAll =>
    obtain ⟨v, h1, h2⟩ := (istftAllBody_ok_iff _ _ _).1 h
    have f1 := istftBody_fills h1
    exact (byteAt_istft_of_outside (latched_of_fills f1 (hs rfl)) (by decide) h2 (outsideWork_of_fills f1 ha)).trans
      (byteAt_istft_of_outside (hs rfl) (by decide) h1 ha)

/-- NOP alone needs no geometry, WS_INIT apart (R173). -/
theorem nop_of_needs_nothing {i : Instr} (h : needsWs i = false) (hws : i ≠ .wsInit) : i = .nop := by
  cases i with
  | nop => rfl
  | wsInit => exact absurd rfl hws
  | _ => cases h

/-- What the checks of a decoded command establish: a latched geometry where it needs one, and operands in range. -/
theorem ready_of_checks {i : Instr} {s : State} (hwf : i.wellFormed = true) (hg : s.GeometryLegal)
    (hchecks : commandError i s = none) : (needsWs i = true → Latched s) ∧ OperandsInRange i s := by
  obtain ⟨hws, -, hframe, -⟩ := commandError_none hchecks
  exact ⟨fun h => ⟨hg, hws h⟩, hwf, hframe⟩

/-! ### A word of the Host -/

/-- The bytes of a word of the Host lie in its buffer. -/
theorem hostWord_inBuffer {s : State} {b : Buffer} {off : Nat} (h : HostWord s b off) {a : Nat}
    (ha : b.base + off ≤ a ∧ a < b.base + off + 4) : s.InBuffer b a := by
  obtain ⟨-, -, -, h4, hlen⟩ := h
  simp only [State.InBuffer, Buffer.Covers, Buffer.addr, Nat.mul_zero, Nat.zero_add]
  rw [Nat.mul_comm] at hlen
  rcases elemSize_cases b with hb | hb <;> rw [hb] at hlen ⊢ <;> omega

/-- The Host writes neither WINDOW nor NORM (R131). -/
theorem hostWord_buffer {s : State} {b : Buffer} {off : Nat} (h : HostWord s b off) : b ≠ .window ∧ b ≠ .norm := by
  obtain ⟨hw, -⟩ := h
  constructor <;> rintro rfl <;> cases hw

/-- A word of the Host leaves the bytes outside the working buffers alone. -/
theorem byteAt_hostWord {s : State} {b : Buffer} {off : Nat} (v : Word) (h : HostWord s b off) {a : Nat}
    (ha : OutsideWork s a) : ({ s with mem := s.mem.writeWords (b.base + off) [v] } : State).byteAt a = s.byteAt a := by
  obtain ⟨h1, h2⟩ := hostWord_buffer h
  refine byte_writeWords_of_not _ _ _ _ fun hin => ha b h1 h2 (hostWord_inBuffer h ?_)
  simpa using hin

/-! ### The stored bytes -/

/-- The byte is an active one. -/
def Active (s : State) (a : Nat) : Prop := s.wsValid = true ∧ ∃ b : Buffer, s.InBuffer b a

theorem isSome_byte_of_mem {m : Memory} {c : Host.Cell} (h : c ∈ m) : (m.byte c.1).isSome = true := by
  induction m with
  | nil => simp at h
  | cons d m ih =>
    obtain ⟨a, x⟩ := d
    by_cases ha : a = c.1
    · simp [Memory.byte, ha]
    · rcases List.mem_cons.1 h with rfl | h
      · exact absurd rfl ha
      · simpa [Memory.byte, ha] using ih h

theorem mem_of_isSome_byte {m : Memory} {a : Nat} (h : (m.byte a).isSome = true) : ∃ c ∈ m, c.1 = a := by
  induction m with
  | nil => simp [Memory.byte] at h
  | cons d m ih =>
    obtain ⟨k, x⟩ := d
    by_cases hk : k = a
    · exact ⟨(k, x), List.mem_cons_self, hk⟩
    · obtain ⟨c, hc, ha⟩ := ih (by simpa [Memory.byte, hk] using h)
      exact ⟨c, List.mem_cons_of_mem _ hc, ha⟩

/-- The ten buffers one by one. -/
theorem exists_buffer_iff (P : Buffer → Prop) :
    (∃ b, P b) ↔ P .wave ∨ P .spec ∨ P .window ∨ P .norm ∨ P .padded ∨ P .padStart ∨ P .padEnd ∨ P .windowed ∨
      P .cframes ∨ P .outacc := by
  constructor
  · rintro ⟨b, hb⟩
    cases b <;> simp only [hb, true_or, or_true]
  · rintro (h | h | h | h | h | h | h | h | h | h) <;> exact ⟨_, h⟩

/-- The stored bytes are active ones. -/
theorem storedInBuffers_iff (s : State) :
    s.StoredInBuffers ↔ ∀ a, (s.byteAt a).isSome = true → Active s a := by
  simp only [Active, exists_buffer_iff]
  constructor
  · intro h a ha
    obtain ⟨c, hc, rfl⟩ := mem_of_isSome_byte ha
    exact h c hc
  · exact fun h c hc => h c.1 (isSome_byte_of_mem hc)

/-- Bytes that hold values stay active where the geometry is kept and only active bytes are written. -/
theorem storedInBuffers_of_bytes {s t : State} (hlen : ∀ b : Buffer, b.len t = b.len s) (hv : t.wsValid = s.wsValid)
    (hbytes : ∀ a, ¬ Active s a → t.byteAt a = s.byteAt a) (hs : s.StoredInBuffers) : t.StoredInBuffers := by
  rw [storedInBuffers_iff] at hs ⊢
  intro a ha
  have hactive : Active s a := by
    by_contra hno
    exact hno (hs a (hbytes a hno ▸ ha))
  obtain ⟨hws, b, hb⟩ := hactive
  refine ⟨hv.trans hws, b, ?_⟩
  unfold State.InBuffer at hb ⊢
  rwa [hlen b]

theorem outsideWork_of_not_active {s : State} (hs : s.wsValid = true) {a : Nat} (ha : ¬ Active s a) :
    OutsideWork s a := fun b _ _ hb => ha ⟨hs, b, hb⟩

theorem bodyOf_keeps_stored {i : Instr} {s u : State} (hwf : i.wellFormed = true) (hg : s.GeometryLegal)
    (hchecks : commandError i s = none) (h : bodyOf i s = .ok u) (hs : s.StoredInBuffers) : u.StoredInBuffers := by
  by_cases hws : i = .wsInit
  · subst hws
    obtain rfl : wsInitBody s = u := Except.ok.inj h
    simp [State.StoredInBuffers, wsInitBody]
  obtain ⟨hready, hops⟩ := ready_of_checks hwf hg hchecks
  by_cases hgen : i = .winGen
  · subst hgen
    obtain rfl : winGenBody s = u := Except.ok.inj h
    obtain ⟨-, hv⟩ := hready rfl
    exact storedInBuffers_of_bytes (s := s) (fun _ => rfl) rfl (fun a ha => byteAt_winGen s (fun h => ha ⟨hv, _, h⟩)
      fun h => ha ⟨hv, _, h⟩) hs
  have hw := bodyOf_writesOnly hws hgen h
  refine storedInBuffers_of_bytes (writesOnly_len hw) (writesOnly_wsValid hw) (fun a ha => ?_) hs
  cases hneeds : needsWs i with
  | true => exact bodyOf_byteAt hready hops hws hgen h (outsideWork_of_not_active (hready hneeds).2 ha)
  | false =>
    obtain rfl := nop_of_needs_nothing hneeds hws
    obtain rfl : s = u := Except.ok.inj h
    rfl

/-! ### The arrays -/

/-- WINDOW and NORM are kept where the geometry is and their bytes are. -/
theorem arraysValid_of_bytes {s t : State} (hsame : SameGeometry s t) (hwin : t.winValid = s.winValid)
    (hbytes : s.winValid = true → ∀ a, s.InBuffer .window a ∨ s.InBuffer .norm a → t.byteAt a = s.byteAt a)
    (hs : s.ArraysValid) : t.ArraysValid := by
  obtain ⟨hW, hH, hN, heps, hP, hL, hNB, hBINS, hF, hI, hb⟩ := hsame
  intro h
  rw [hwin] at h
  obtain ⟨hwindow, hnorm⟩ := hs h
  have hwarr : t.windowArray = s.windowArray := by simp only [State.windowArray, State.gW, hW, hb]
  have hnarr : t.normArray = s.normArray := by
    simp only [State.normArray, hwarr, State.gL, State.gH, State.gNB, hL, hH, hNB]
  rw [hwarr, hnarr]
  refine ⟨readsAs_of_bytes rfl (fun a ha => hbytes h a (.inl ?_)) hwindow,
    readsAs_of_bytes rfl (fun a ha => hbytes h a (.inr ?_)) hnorm⟩
  · rwa [state_windowArray_length] at ha
  · rwa [state_normArray_length] at ha

/-- WINDOW and NORM are outside the working buffers (R121). -/
theorem outsideWork_of_arrays {s : State} (hs : Latched s) {a : Nat} (ha : s.InBuffer .window a ∨ s.InBuffer .norm a) :
    OutsideWork s a := by
  intro b h1 h2 hb
  rcases ha with ha | ha
  · exact inBuffer_disjoint hs h1 hb ha
  · exact inBuffer_disjoint hs h2 hb ha

/-- A command other than WS_INIT and WIN_GEN leaves the bytes of WINDOW and NORM as they were. -/
theorem bodyOf_keeps_arrays {i : Instr} {s u : State} (hwf : i.wellFormed = true) (hg : s.GeometryLegal)
    (hchecks : commandError i s = none) (hws : i ≠ .wsInit) (hgen : i ≠ .winGen) (h : bodyOf i s = .ok u) {a : Nat}
    (ha : s.InBuffer .window a ∨ s.InBuffer .norm a) : u.byteAt a = s.byteAt a := by
  obtain ⟨hready, hops⟩ := ready_of_checks hwf hg hchecks
  cases hneeds : needsWs i with
  | true => exact bodyOf_byteAt hready hops hws hgen h (outsideWork_of_arrays (hready hneeds) ha)
  | false =>
    obtain rfl := nop_of_needs_nothing hneeds hws
    obtain rfl : s = u := Except.ok.inj h
    rfl

theorem bodyOf_keeps_arraysValid {i : Instr} {s u : State} (hwf : i.wellFormed = true) (hg : s.GeometryLegal)
    (hchecks : commandError i s = none) (h : bodyOf i s = .ok u) (hs : s.ArraysValid) : u.ArraysValid := by
  by_cases hws : i = .wsInit
  · subst hws
    obtain rfl : wsInitBody s = u := Except.ok.inj h
    exact fun h => by cases h
  by_cases hgen : i = .winGen
  · subst hgen
    obtain rfl : winGenBody s = u := Except.ok.inj h
    exact fun _ => winGen_arrays ((ready_of_checks hwf hg hchecks).1 rfl)
  obtain ⟨hsame, -, hwin⟩ := bodyOf_keeps_geometry hws h
  exact arraysValid_of_bytes hsame (hwin hgen) (fun _ a => bodyOf_keeps_arrays hwf hg hchecks hws hgen h) hs

/-! ### The invariant -/

theorem bodyOf_keeps_geometryLegal {i : Instr} {s u : State} (hchecks : commandError i s = none)
    (h : bodyOf i s = .ok u) (hg : s.GeometryLegal) : u.GeometryLegal := by
  by_cases hws : i = .wsInit
  · subst hws
    obtain rfl : wsInitBody s = u := Except.ok.inj h
    rw [commandError_wsInit] at hchecks
    exact latchCfg_geometryLegal hg.1 hchecks
  by_cases hgen : i = .winGen
  · subst hgen
    obtain rfl : winGenBody s = u := Except.ok.inj h
    exact hg
  exact writesOnly_geometryLegal (bodyOf_writesOnly hws hgen h) hg

theorem hostWord_keeps_inv {s : State} {b : Buffer} {off : Nat} (v : Word) (hw : HostWord s b off) (hs : s.Inv) :
    State.Inv { s with mem := s.mem.writeWords (b.base + off) [v] } := by
  obtain ⟨hflags, hg, hcanon, hstored, harrays⟩ := hs
  have hv : s.wsValid = true := hw.2.1
  refine ⟨hflags, hg, wf_writeWords _ _ hcanon, ?_, ?_⟩
  · exact storedInBuffers_of_bytes (s := s) (fun _ => rfl) rfl
      (fun a ha => byteAt_hostWord v hw (outsideWork_of_not_active hv ha)) hstored
  · exact arraysValid_of_bytes (s := s) ⟨rfl, rfl, rfl, rfl, rfl, rfl, rfl, rfl, rfl, rfl, rfl⟩ rfl
      (fun _ a ha => byteAt_hostWord v hw (outsideWork_of_arrays ⟨hg, hv⟩ ha)) harrays

/-- A reset state of a legal build meets the invariant (R461). -/
theorem reset_inv {b : Config.Build} (hb : BuildLegal b) (s : State) :
    State.Inv { State.resetOf b with turns := s.turns, response := s.response, draws := s.draws } := by
  exact ⟨flagsCoherent_reset b s, ⟨hb, fun h => Bool.noConfusion h⟩, rfl, fun c hc => (List.not_mem_nil hc).elim,
    fun h => Bool.noConfusion h⟩

/-- Settles O39: each part of the invariant is kept by bodies and by the Host's words, and holds after a reset. -/
theorem invariantIsKept : Obligations.InvariantIsKept := by
  unfold Obligations.InvariantIsKept
  refine fun s t hs h => step_keeps (P := State.Inv) (fun _ _ h => h) ?_ (fun _ _ v _ hw => hostWord_keeps_inv v hw)
    (fun s hs => reset_inv hs.2.1.1 s) hs h
  rintro i s u hwf hchecks hbody ⟨hflags, hg, hcanon, hstored, harrays⟩
  exact ⟨bodyOf_keeps_flags hchecks hbody hflags, bodyOf_keeps_geometryLegal hchecks hbody hg,
    bodyOf_keeps_canonical hbody hcanon, bodyOf_keeps_stored hwf hg hchecks hbody hstored,
    bodyOf_keeps_arraysValid hwf hg hchecks hbody harrays⟩

/-- The default build is legal (R6). -/
theorem default_buildLegal : BuildLegal Config.Build.default := by decide

/-- Settles O40: the reset state has no geometry and no bytes. -/
theorem invariantHoldsAtReset : Obligations.InvariantHoldsAtReset := by
  unfold Obligations.InvariantHoldsAtReset
  exact ⟨reset_inv default_buildLegal State.reset, fun b hb => reset_inv hb (State.resetOf b)⟩

/-- A command other than WS_INIT and WIN_GEN leaves the bytes of WINDOW and NORM as they were. -/
theorem exec_keeps_arrays {i : Instr} {s t : State} (hg : s.GeometryLegal) (hwf : i.wellFormed = true)
    (hgen : i ≠ .winGen) (hws : i ≠ .wsInit) (h : exec i s = .next t) {a : Nat}
    (ha : s.InBuffer .window a ∨ s.InBuffer .norm a) : t.byteAt a = s.byteAt a := by
  obtain ⟨e, -, rfl⟩ | ⟨hchecks, u, hbody, rfl⟩ := (exec_next_iff i s t).1 h
  · rfl
  · exact bodyOf_keeps_arrays hwf hg hchecks hws hgen hbody ha

/-- A transaction that is no soft reset leaves the bytes of WINDOW and NORM as they were (R131). -/
theorem transact_keeps_arrays {r : BusReq} {s : State} (hg : s.GeometryLegal) (hr : (Turn.host r).isReset = false)
    {a : Nat} (ha : s.InBuffer .window a ∨ s.InBuffer .norm a) : (transact r s).byteAt a = s.byteAt a := by
  obtain hdata | ⟨hreset, -⟩ | ⟨b, off, v, hw, h⟩ := transact_data_cases r s
  · rw [hdata]
    rfl
  · simp [hr] at hreset
  · rw [h]
    exact byteAt_hostWord v hw (outsideWork_of_arrays ⟨hg, hw.2.1⟩ ha)

/-- Settles O41: by what commands and transactions leave alone, and the cases of a step. -/
theorem windowAndNormAreImmutable : Obligations.WindowAndNormAreImmutable := by
  unfold Obligations.WindowAndNormAreImmutable
  refine fun s a hg ha => ⟨fun i t hwf hgen hws h => exec_keeps_arrays hg hwf hgen hws h ha,
    fun r hr => transact_keeps_arrays hg hr ha, fun t h hreset hgen hws => ?_⟩
  obtain ⟨ts, rfl | ⟨v, rfl⟩ | ⟨i, hruns, hexec⟩ | ⟨r, hr, rfl⟩⟩ := step_cases_of_no_reset h hreset
  · rfl
  · rfl
  · have hwf : i.wellFormed = true := by
      obtain ⟨-, p, -, hp⟩ := hruns
      exact wellFormed_of_decode hp
    exact exec_keeps_arrays (s := { s with turns := ts }) hg hwf (fun hi => hgen (hi ▸ hruns))
      (fun hi => hws (hi ▸ hruns)) hexec ha
  · exact transact_keeps_arrays (s := { s with turns := ts }) hg hr ha

end Sys2Proof.Proofs.Invariants
end

section
/-! Bodies and control (70_reset_and_hazards.md R474, 43_channel_driver.md R360 to R363): a body works on the data of a
state, whatever its control fields are and whatever command it runs under; so a transaction does not change a pending command's
effect, and a driver command is the sequence of its micro-commands. -/

namespace Sys2Proof.Proofs.Sequences

open Sys2Proof.Machine Sys2Proof.Proofs.Encoding Sys2Proof.Proofs.HostPort Sys2Proof.Proofs.Execution
  Sys2Proof.Proofs.Elements Sys2Proof.Proofs.Faults Sys2Proof.Proofs.Arrays Sys2Proof.Proofs.Invariants

/-! ### Bodies commute with a change of control -/

/-- A body whose answers, when it answers, do not depend on the control fields and carry them over. -/
def DataOnly (body : State → Except Fault State) : Prop :=
  ∀ x s t, body (graft x s) = .ok t ↔ ∃ u, body s = .ok u ∧ t = graft x u

theorem DataOnly.of_total {g : State → State} (h : ∀ x s, g (graft x s) = graft x (g s)) :
    DataOnly fun s => .ok (g s) := by
  intro x s t
  simp only [Except.ok.injEq, h]
  constructor
  · rintro rfl; exact ⟨_, rfl, rfl⟩
  · rintro ⟨u, rfl, rfl⟩; rfl

/-- Bodies in sequence. -/
theorem DataOnly.bind {f g : State → Except Fault State} (hf : DataOnly f) (hg : DataOnly g) :
    DataOnly fun s => f s >>= g := by
  intro x s t
  simp only [bind_ok_iff]
  constructor
  · rintro ⟨v, hv, ht⟩
    obtain ⟨u, hu, rfl⟩ := (hf x s v).1 hv
    obtain ⟨w, hw, rfl⟩ := (hg x u t).1 ht
    exact ⟨w, ⟨u, hu, hw⟩, rfl⟩
  · rintro ⟨w, ⟨u, hu, hw⟩, rfl⟩
    exact ⟨graft x u, (hf x s _).2 ⟨u, hu, rfl⟩, (hg x u _).2 ⟨w, hw, rfl⟩⟩

theorem dataOnly_loadRow (cmd : Instr) (c : Nat) : DataOnly (loadRowBody cmd c) := by
  intro x s t
  simp only [loadRowBody_ok_iff]
  constructor
  · rintro ⟨r, hlen, hr, rfl⟩; exact ⟨_, ⟨r, hlen, hr, rfl⟩, rfl⟩
  · rintro ⟨_, ⟨r, hlen, hr, rfl⟩, rfl⟩; exact ⟨r, hlen, hr, rfl⟩

theorem dataOnly_reflectPad (cmd : Instr) : DataOnly (reflectPadBody cmd) := by
  intro x s t
  simp only [reflectPadBody_ok_iff]
  constructor
  · rintro ⟨p, q, hp, hrp, hq, hrq, rfl⟩; exact ⟨_, ⟨p, q, hp, hrp, hq, hrq, rfl⟩, rfl⟩
  · rintro ⟨_, ⟨p, q, hp, hrp, hq, hrq, rfl⟩, rfl⟩; exact ⟨p, q, hp, hrp, hq, hrq, rfl⟩

theorem dataOnly_frameFwd (cmd : Instr) (f : Nat) : DataOnly (frameFwdBody cmd f) := by
  intro x s t
  simp only [frameFwdBody_ok_iff]
  constructor
  · rintro ⟨p, q, hp, hrp, hq, hrq, rfl⟩; exact ⟨_, ⟨p, q, hp, hrp, hq, hrq, rfl⟩, rfl⟩
  · rintro ⟨_, ⟨p, q, hp, hrp, hq, hrq, rfl⟩, rfl⟩; exact ⟨p, q, hp, hrp, hq, hrq, rfl⟩

theorem dataOnly_specStore (cmd : Instr) (c : Nat) : DataOnly (specStoreBody cmd c) := by
  intro x s t
  simp only [specStoreBody_ok_iff]
  constructor
  · rintro ⟨z, hz, rfl⟩; exact ⟨_, ⟨z, hz, rfl⟩, rfl⟩
  · rintro ⟨_, ⟨z, hz, rfl⟩, rfl⟩; exact ⟨z, hz, rfl⟩

theorem dataOnly_specLoad (cmd : Instr) (c : Nat) : DataOnly (specLoadBody cmd c) := by
  intro x s t
  simp only [specLoadBody_ok_iff]
  constructor
  · rintro ⟨z, hz, rfl⟩; exact ⟨_, ⟨z, hz, rfl⟩, rfl⟩
  · rintro ⟨_, ⟨z, hz, rfl⟩, rfl⟩; exact ⟨z, hz, rfl⟩

theorem dataOnly_accClear : DataOnly fun s => .ok (accClearBody s) := DataOnly.of_total fun _ _ => rfl

theorem dataOnly_frameInv (cmd : Instr) (f : Nat) : DataOnly (frameInvBody cmd f) := by
  intro x s t
  simp only [frameInvBody_ok_iff]
  constructor
  · rintro ⟨z, a, w, n, hz, hrz, ha, hra, hw, hrw, hn, hrn, rfl⟩
    exact ⟨_, ⟨z, a, w, n, hz, hrz, ha, hra, hw, hrw, hn, hrn, rfl⟩, rfl⟩
  · rintro ⟨_, ⟨z, a, w, n, hz, hrz, ha, hra, hw, hrw, hn, hrn, rfl⟩, rfl⟩
    exact ⟨z, a, w, n, hz, hrz, ha, hra, hw, hrw, hn, hrn, rfl⟩

theorem dataOnly_rowStore (cmd : Instr) (c : Nat) : DataOnly (rowStoreBody cmd c) := by
  intro x s t
  simp only [rowStoreBody_ok_iff]
  constructor
  · rintro ⟨r, hlen, hr, rfl⟩; exact ⟨_, ⟨r, hlen, hr, rfl⟩, rfl⟩
  · rintro ⟨_, ⟨r, hlen, hr, rfl⟩, rfl⟩; exact ⟨r, hlen, hr, rfl⟩

/-- A loop of frames is its first frame followed by the others. -/
theorem forFrames_succ (body : Nat → State → Except Fault State) (start n : Nat) (s : State) :
    forFrames body start (n + 1) s = body start s >>= forFrames body (start + 1) n := by
  rw [forFrames]
  cases body start s <;> rfl

theorem dataOnly_forFrames {body : Nat → State → Except Fault State} (h : ∀ f, DataOnly (body f)) (n start : Nat) :
    DataOnly (forFrames body start n) := by
  induction n generalizing start with
  | zero => exact DataOnly.of_total fun _ _ => rfl
  | succ n ih =>
    intro x s t
    simp only [forFrames_succ]
    exact (h start).bind (ih (start + 1)) x s t

theorem dataOnly_stft (cmd : Instr) (c : Nat) : DataOnly (stftBody cmd c) := by
  intro x s t
  have h3 := (dataOnly_forFrames (dataOnly_frameFwd cmd) s.gNB 0).bind (dataOnly_specStore cmd c)
  exact (dataOnly_loadRow cmd c).bind ((dataOnly_reflectPad cmd).bind h3) x s t

theorem dataOnly_istft (cmd : Instr) (c : Nat) : DataOnly (istftBody cmd c) := by
  intro x s t
  have h2 := (dataOnly_forFrames (dataOnly_frameInv cmd) s.gNB 0).bind (dataOnly_rowStore cmd c)
  have h1 : DataOnly fun u => forFrames (frameInvBody cmd) 0 s.gNB (accClearBody u) >>= rowStoreBody cmd c :=
    dataOnly_accClear.bind h2
  exact (dataOnly_specLoad cmd c).bind h1 x s t

/-- Every body but that of WS_INIT, which reads CFG, works on the data alone. -/
theorem dataOnly_bodyOf {i : Instr} (hi : i ≠ .wsInit) : DataOnly (bodyOf i) := by
  cases i with
  | wsInit => exact absurd rfl hi
  | nop => exact DataOnly.of_total fun _ _ => rfl
  | winGen => exact DataOnly.of_total fun _ _ => rfl
  | loadRow c => exact dataOnly_loadRow _ c
  | reflectPad => exact dataOnly_reflectPad _
  | frameFwd f => exact dataOnly_frameFwd _ f
  | specStore c => exact dataOnly_specStore _ c
  | stft c => exact dataOnly_stft _ c
  | stftAll => exact (dataOnly_stft _ 0).bind (dataOnly_stft _ 1)
  | specLoad c => exact dataOnly_specLoad _ c
  | accClear => exact dataOnly_accClear
  | frameInv f => exact dataOnly_frameInv _ f
  | rowStore c => exact dataOnly_rowStore _ c
  | istft c => exact dataOnly_istft _ c
  | istftAll => exact (dataOnly_istft _ 0).bind (dataOnly_istft _ 1)

/-! ### Latency -/

/-- WS_INIT works on the data and the CFG values it reads. -/
theorem wsInit_graft {x s : State} (hcfg : (graft x s).wsCfg = s.wsCfg) (t : State) :
    bodyOf .wsInit (graft x s) = .ok t ↔ ∃ u, bodyOf .wsInit s = .ok u ∧ t = graft x u := by
  have hbody : wsInitBody (graft x s) = graft x (wsInitBody s) := by
    simp only [wsInitBody, latchGeometry, hcfg]
    rfl
  simp only [bodyOf, Except.ok.injEq, hbody]
  constructor
  · rintro rfl; exact ⟨_, rfl, rfl⟩
  · rintro ⟨u, rfl, rfl⟩; rfl

/-- The body of a pending command does not see the control fields, but for the CFG values it was accepted with (log 24). -/
theorem bodyOf_graft {x s : State} (hcfg : (graft x s).wsCfg = s.wsCfg) (i : Instr) (t : State) :
    bodyOf i (graft x s) = .ok t ↔ ∃ u, bodyOf i s = .ok u ∧ t = graft x u := by
  by_cases hi : i = .wsInit
  · subst hi
    exact wsInit_graft hcfg t
  · exact dataOnly_bodyOf hi x s t

/-- Neither do its checks. -/
theorem commandError_graft {x s : State} (hcfg : (graft x s).wsCfg = s.wsCfg) (i : Instr) :
    commandError i (graft x s) = commandError i s := by
  have hown : ownError i (graft x s) = ownError i s := by
    simp only [ownError, wsInitError, hcfg]
    rfl
  simp only [commandError, hown]
  rfl

/-- The two states agree on what a pending command's effect is about. -/
def SameEffect (t u : State) : Prop :=
  u.mem = t.mem ∧ SameGeometry t u ∧ u.wsValid = t.wsValid ∧ u.winValid = t.winValid ∧
    u.errCode = t.errCode ∧ u.errInfo = t.errInfo ∧ u.lastOp = t.lastOp ∧ u.pending = none

/-- A command's answer from a state with other control fields: it exists when the other does, and has the same effect. -/
theorem exec_graft {x s : State} (hcfg : (graft x s).wsCfg = s.wsCfg) (hinfo : x.errInfo = s.errInfo)
    (hop : x.lastOp = s.lastOp) (i : Instr) :
    ((∃ t, exec i s = .next t) ↔ ∃ t, exec i (graft x s) = .next t) ∧
      ∀ t u, exec i s = .next t → exec i (graft x s) = .next u → SameEffect t u := by
  simp only [exec_next_iff, commandError_graft hcfg, bodyOf_graft hcfg]
  refine ⟨⟨?_, ?_⟩, ?_⟩
  · rintro ⟨t, ⟨e, he, -⟩ | ⟨he, v, hv, -⟩⟩
    · exact ⟨_, .inl ⟨e, he, rfl⟩⟩
    · exact ⟨_, .inr ⟨he, _, ⟨v, hv, rfl⟩, rfl⟩⟩
  · rintro ⟨t, ⟨e, he, -⟩ | ⟨he, _, ⟨v, hv, rfl⟩, -⟩⟩
    · exact ⟨_, .inl ⟨e, he, rfl⟩⟩
    · exact ⟨_, .inr ⟨he, v, hv, rfl⟩⟩
  · rintro t u (⟨e, he, rfl⟩ | ⟨he, v, hv, rfl⟩) (⟨e', he', rfl⟩ | ⟨he', _, ⟨v', hv', rfl⟩, rfl⟩)
    · obtain rfl : e = e' := Option.some.inj (he.symm.trans he')
      exact ⟨rfl, ⟨rfl, rfl, rfl, rfl, rfl, rfl, rfl, rfl, rfl, rfl, rfl⟩, rfl, rfl, rfl, rfl, hop, rfl⟩
    · simp [he] at he'
    · simp [he'] at he
    · obtain rfl : v = v' := Except.ok.inj (hv.symm.trans hv')
      have hframe := bodyOf_frame hv
      have hvinfo : v.errInfo = s.errInfo := by rw [hframe]
      have hvop : v.lastOp = s.lastOp := by rw [hframe]
      exact ⟨rfl, ⟨rfl, rfl, rfl, rfl, rfl, rfl, rfl, rfl, rfl, rfl, rfl⟩, rfl, rfl, rfl, hinfo.trans hvinfo.symm,
        hop.trans hvop.symm, rfl⟩

/-- A CSR write other than a CMD write leaves the pending command and LAST_OP alone, unless it is the soft reset. -/
theorem csrWrite_keeps_command {off : Nat} {v : Word} {s : State} (hcmd : off ≠ 0x020)
    (hreset : ¬ (off = 0x008 ∧ v.getLsbD 0 = true)) :
    (csrWrite off v s).pending = s.pending ∧ (csrWrite off v s).lastOp = s.lastOp := by
  unfold csrWrite
  split
  case h_1 =>
    rw [writeCtrl, if_neg fun hv => hreset ⟨rfl, hv⟩]
    exact ⟨rfl, rfl⟩
  case h_4 => exact absurd rfl hcmd
  all_goals exact ⟨rfl, rfl⟩

/-- While a command is pending no window and no CMD write is accepted, so a transaction that is no soft reset leaves the
pending command, LAST_OP and the data alone (R132, R466). -/
theorem transact_busy {r : BusReq} {s : State} {p : Pending} (hp : s.pending = some p)
    (hr : (Turn.host r).isReset = false) :
    transact r s = graft (transact r s) s ∧ (transact r s).pending = some p ∧ (transact r s).lastOp = s.lastOp := by
  have hdata : transact r s = graft (transact r s) s := by
    obtain hdata | ⟨hreset, -⟩ | ⟨b, off, v, hw, -⟩ := transact_data_cases r s
    · exact hdata
    · simp [hr] at hreset
    · obtain ⟨-, -, hidle, -⟩ := hw
      simp [hp] at hidle
  refine ⟨hdata, ?_⟩
  rw [← hp]
  obtain ⟨-, h⟩ | ⟨hok, ⟨a, n, -, h⟩ | ⟨a, n, v, rfl, h⟩⟩ := transact_cases r s
  · rw [h]; exact ⟨rfl, rfl⟩
  · obtain ⟨w, m, hframe⟩ := acceptRead_frame a.toNat s
    rw [h, hframe]; exact ⟨rfl, rfl⟩
  · have hbad : ¬ BadRequest (.write a n v) s := by rw [← busError_iff, hok]; simp
    have hregion : regionOf a.toNat = 0 := by
      by_contra hregion
      obtain ⟨b, off, ⟨-, -, hidle, -⟩, -⟩ := hostWord_of_accepted hok hregion
      simp [hp] at hidle
    have haddr : offsetOf a.toNat = a.toNat ∧ a.toNat < 0x10000000 := by
      simp only [regionOf, offsetOf] at hregion ⊢; omega
    rw [h, acceptWrite, if_pos hregion, haddr.1]
    refine csrWrite_keeps_command (fun hcmd => hbad ?_) fun ⟨hctrl, hv⟩ => ?_
    · exact .inr (.inr (.inr (.inl ⟨haddr.2, .inr ⟨rfl, hcmd, by rw [hp]; rfl⟩⟩)))
    · have ha : a = 0x00000008#32 := BitVec.eq_of_toNat_eq hctrl
      simp only [Turn.isReset, ha, hv] at hr
      cases hr

/-- Settles O60: the transaction changes control fields that no body and no check sees. -/
theorem latencyIndependence : Obligations.LatencyIndependence := by
  unfold Obligations.LatencyIndependence
  intro s p r hp hr
  obtain ⟨hdata, hpend, hop⟩ := transact_busy hp hr
  have hinfo : (transact r s).errInfo = s.errInfo := by rw [transact_frame s hr]
  have hcfg : (graft (transact r s) s).wsCfg = s.wsCfg := by
    rw [← hdata, wsCfg_of_pending hpend, wsCfg_of_pending hp]
  refine ⟨hpend, ?_⟩
  cases hdec : decode p.word with
  | error e =>
    simp only [executeWord, hdec]
    refine ⟨⟨fun _ => ⟨_, rfl⟩, fun _ => ⟨_, rfl⟩⟩, fun t u ht hu => ?_⟩
    obtain rfl := Host.Outcome.next.inj ht
    obtain rfl := Host.Outcome.next.inj hu
    rw [hdata]
    exact ⟨rfl, ⟨rfl, rfl, rfl, rfl, rfl, rfl, rfl, rfl, rfl, rfl, rfl⟩, rfl, rfl, rfl, rfl, hop, rfl⟩
  | ok i =>
    simp only [executeWord, hdec]
    rw [hdata]
    exact exec_graft hcfg hinfo hop i

/-! ### Driver commands as sequences -/

/-- The bodies of a list of commands one after the other. -/
def bodySeq : List Instr → State → Except Fault State
  | [], s => .ok s
  | i :: is, s => bodyOf i s >>= bodySeq is

theorem bodySeq_cons_ok_iff (i : Instr) (is : List Instr) (s t : State) :
    bodySeq (i :: is) s = .ok t ↔ ∃ u, bodyOf i s = .ok u ∧ bodySeq is u = .ok t := by
  rw [bodySeq, bind_ok_iff]

theorem bodySeq_nil_ok_iff (s t : State) : bodySeq [] s = .ok t ↔ t = s := by
  rw [bodySeq, Except.ok.injEq, eq_comm]

theorem bodySeq_singleton_ok_iff (i : Instr) (s t : State) : bodySeq [i] s = .ok t ↔ bodyOf i s = .ok t := by
  simp [bodySeq_cons_ok_iff, bodySeq_nil_ok_iff]

theorem bodySeq_append_ok_iff (is js : List Instr) (s t : State) :
    bodySeq (is ++ js) s = .ok t ↔ ∃ u, bodySeq is s = .ok u ∧ bodySeq js u = .ok t := by
  induction is generalizing s with
  | nil => simp [bodySeq]
  | cons i is ih =>
    simp only [List.cons_append, bodySeq_cons_ok_iff, ih]
    constructor
    · rintro ⟨u, hu, v, hv, ht⟩; exact ⟨v, ⟨u, hu, hv⟩, ht⟩
    · rintro ⟨v, ⟨u, hu, hv⟩, ht⟩; exact ⟨u, hu, v, hv, ht⟩

/-- A command that works on buffers alone, and whose checks pass with both flags set and this frame count. -/
def Runnable (n : Nat) (i : Instr) : Prop :=
  i ≠ .wsInit ∧ i ≠ .winGen ∧ ∀ f, frameOperand i = some f → f < n

theorem commandError_of_runnable {i : Instr} {s : State} (hi : Runnable s.gNB i) (hv : s.wsValid = true)
    (hwin : s.winValid = true) : commandError i s = none := by
  obtain ⟨hws, -, hframe⟩ := hi
  refine commandError_of_ready hws hv (fun _ => hwin) ?_
  unfold frameTooLarge
  split
  · rename_i f hf
    simpa using hframe f hf
  · rfl

/-- A runnable command answers next with its body's answer, completed. -/
theorem exec_iff_of_runnable {i : Instr} {s : State} (hi : Runnable s.gNB i) (hv : s.wsValid = true)
    (hwin : s.winValid = true) (t : State) : exec i s = .next t ↔ ∃ u, bodyOf i s = .ok u ∧ t = succeed u := by
  simp [exec_next_iff, commandError_of_runnable hi hv hwin]

theorem execAll_cons_next_iff (i : Instr) (is : List Instr) (s t : State) :
    execAll (i :: is) s = .next t ↔ ∃ u, exec i s = .next u ∧ execAll is u = .next t := by
  rw [execAll]
  cases exec i s <;> simp

theorem dataOnly_bodySeq {is : List Instr} (h : ∀ i ∈ is, i ≠ .wsInit) : DataOnly (bodySeq is) := by
  induction is with
  | nil => exact DataOnly.of_total fun _ _ => rfl
  | cons i is ih =>
    exact (dataOnly_bodyOf (h i List.mem_cons_self)).bind (ih fun j hj => h j (List.mem_cons_of_mem _ hj))

theorem bodySeq_writesOnly {n : Nat} {is : List Instr} (his : ∀ i ∈ is, Runnable n i) {s t : State}
    (h : bodySeq is s = .ok t) : WritesOnly s t := by
  induction is generalizing s with
  | nil => exact Except.ok.inj h ▸ WritesOnly.refl s
  | cons i is ih =>
    obtain ⟨u, hu, ht⟩ := (bodySeq_cons_ok_iff _ _ _ _).1 h
    obtain ⟨hws, hgen, -⟩ := his i List.mem_cons_self
    exact (bodyOf_writesOnly hws hgen hu).trans (ih (fun j hj => his j (List.mem_cons_of_mem _ hj)) ht)

/-- Completing before the bodies too makes no difference once the last one completes. -/
theorem bodySeq_succeed_iff {n : Nat} {is : List Instr} (his : ∀ i ∈ is, Runnable n i) (s t : State) :
    (∃ u, bodySeq is (succeed s) = .ok u ∧ t = succeed u) ↔ ∃ u, bodySeq is s = .ok u ∧ t = succeed u := by
  have hdata := dataOnly_bodySeq (is := is) fun i hi => (his i hi).1
  have hcontrol : ∀ u, bodySeq is s = .ok u → succeed (graft (succeed s) u) = succeed u := by
    intro u hu
    obtain ⟨hframe, -⟩ := bodySeq_writesOnly his hu
    rw [hframe]
    rfl
  rw [succeed_eq_graft s]
  simp only [hdata (succeed s) s]
  constructor
  · rintro ⟨_, ⟨u, hu, rfl⟩, rfl⟩; exact ⟨u, hu, hcontrol u hu⟩
  · rintro ⟨u, hu, rfl⟩; exact ⟨_, ⟨u, hu, rfl⟩, (hcontrol u hu).symm⟩

/-- A non-empty list of runnable commands answers next with the answer of its bodies in sequence, completed. -/
theorem execAll_next_iff {i : Instr} {is : List Instr} {s : State} (his : ∀ j ∈ i :: is, Runnable s.gNB j)
    (hv : s.wsValid = true) (hwin : s.winValid = true) (t : State) :
    execAll (i :: is) s = .next t ↔ ∃ u, bodySeq (i :: is) s = .ok u ∧ t = succeed u := by
  induction is generalizing i s with
  | nil =>
    simp only [bodySeq_singleton_ok_iff, ← exec_iff_of_runnable (his i List.mem_cons_self) hv hwin]
    rw [execAll_cons_next_iff]
    constructor
    · rintro ⟨u, hu, ht⟩; exact Host.Outcome.next.inj ht ▸ hu
    · exact fun h => ⟨t, h, rfl⟩
  | cons j is ih =>
    have hi := his i List.mem_cons_self
    have htail : ∀ k ∈ j :: is, Runnable s.gNB k := fun k hk => his k (List.mem_cons_of_mem _ hk)
    have hnext : ∀ u, bodyOf i s = .ok u →
        (execAll (j :: is) (succeed u) = .next t ↔ ∃ w, bodySeq (j :: is) u = .ok w ∧ t = succeed w) := by
      intro u hu
      have hw := bodyOf_writesOnly hi.1 hi.2.1 hu
      obtain ⟨-, -, -, -, -, hNB, -⟩ := writesOnly_geometry hw
      rw [ih (s := succeed u) (by rw [succeed_gNB, hNB]; exact htail) ((writesOnly_wsValid hw).trans hv)
        ((writesOnly_winValid hw).trans hwin)]
      exact bodySeq_succeed_iff htail u t
    rw [execAll_cons_next_iff]
    simp only [exec_iff_of_runnable hi hv hwin, bodySeq_cons_ok_iff i (j :: is)]
    constructor
    · rintro ⟨_, ⟨u, hu, rfl⟩, ht⟩
      obtain ⟨w, hw, rfl⟩ := (hnext u hu).1 ht
      exact ⟨w, ⟨u, hu, hw⟩, rfl⟩
    · rintro ⟨w, ⟨u, hu, hw⟩, rfl⟩
      exact ⟨_, ⟨u, hu, rfl⟩, (hnext u hu).2 ⟨w, hw, rfl⟩⟩

/-- A command whose body is a sequence of runnable commands' bodies leaves what the sequence leaves. -/
theorem exec_iff_execAll {d i : Instr} {is : List Instr} {s : State} (hd : Runnable s.gNB d)
    (his : ∀ j ∈ i :: is, Runnable s.gNB j) (hv : s.wsValid = true) (hwin : s.winValid = true)
    (hbody : ∀ u, bodyOf d s = .ok u ↔ bodySeq (i :: is) s = .ok u) (t : State) :
    exec d s = .next t ↔ execAll (i :: is) s = .next t := by
  rw [exec_iff_of_runnable hd hv hwin, execAll_next_iff his hv hwin]
  simp only [hbody]

/-- What a body answers does not depend on the command it runs under, which it names in a fault only (log 11). -/
theorem loadRowBody_ok_congr (cmd cmd' : Instr) (c : Nat) (s t : State) :
    loadRowBody cmd c s = .ok t ↔ loadRowBody cmd' c s = .ok t := by
  rw [loadRowBody_ok_iff, loadRowBody_ok_iff]

@[inherit_doc loadRowBody_ok_congr]
theorem reflectPadBody_ok_congr (cmd cmd' : Instr) (s t : State) :
    reflectPadBody cmd s = .ok t ↔ reflectPadBody cmd' s = .ok t := by
  rw [reflectPadBody_ok_iff, reflectPadBody_ok_iff]

@[inherit_doc loadRowBody_ok_congr]
theorem frameFwdBody_ok_congr (cmd cmd' : Instr) (f : Nat) (s t : State) :
    frameFwdBody cmd f s = .ok t ↔ frameFwdBody cmd' f s = .ok t := by
  rw [frameFwdBody_ok_iff, frameFwdBody_ok_iff]

@[inherit_doc loadRowBody_ok_congr]
theorem specStoreBody_ok_congr (cmd cmd' : Instr) (c : Nat) (s t : State) :
    specStoreBody cmd c s = .ok t ↔ specStoreBody cmd' c s = .ok t := by
  rw [specStoreBody_ok_iff, specStoreBody_ok_iff]

@[inherit_doc loadRowBody_ok_congr]
theorem specLoadBody_ok_congr (cmd cmd' : Instr) (c : Nat) (s t : State) :
    specLoadBody cmd c s = .ok t ↔ specLoadBody cmd' c s = .ok t := by
  rw [specLoadBody_ok_iff, specLoadBody_ok_iff]

@[inherit_doc loadRowBody_ok_congr]
theorem frameInvBody_ok_congr (cmd cmd' : Instr) (f : Nat) (s t : State) :
    frameInvBody cmd f s = .ok t ↔ frameInvBody cmd' f s = .ok t := by
  rw [frameInvBody_ok_iff, frameInvBody_ok_iff]

@[inherit_doc loadRowBody_ok_congr]
theorem rowStoreBody_ok_congr (cmd cmd' : Instr) (c : Nat) (s t : State) :
    rowStoreBody cmd c s = .ok t ↔ rowStoreBody cmd' c s = .ok t := by
  rw [rowStoreBody_ok_iff, rowStoreBody_ok_iff]

/-- A loop of frames is the sequence of its frames' commands. -/
theorem forFrames_ok_iff_bodySeq {body : Nat → State → Except Fault State} {mk : Nat → Instr}
    (h : ∀ f s t, body f s = .ok t ↔ bodyOf (mk f) s = .ok t) (n start : Nat) (s t : State) :
    forFrames body start n s = .ok t ↔ bodySeq ((List.range' start n).map mk) s = .ok t := by
  induction n generalizing start s with
  | zero => rfl
  | succ n ih =>
    rw [forFrames_succ, bind_ok_iff, List.range'_succ, List.map_cons, bodySeq_cons_ok_iff]
    simp only [h, ih]

/-- The body of STFT, under any command, is the sequence of its micro-commands' bodies (R360). -/
theorem stftBody_ok_iff_bodySeq (cmd : Instr) (c : Nat) (s t : State) :
    stftBody cmd c s = .ok t ↔ bodySeq (stftSteps c s.gNB) s = .ok t := by
  have hframes := forFrames_ok_iff_bodySeq (mk := .frameFwd)
    (fun f => frameFwdBody_ok_congr cmd (.frameFwd f) f) s.gNB 0
  rw [← List.range_eq_range'] at hframes
  rw [stftSteps, bodySeq_append_ok_iff, stftBody_ok_iff]
  simp only [bodySeq_append_ok_iff, bodySeq_cons_ok_iff, ← hframes, bodySeq_nil_ok_iff]
  simp only [bodyOf, loadRowBody_ok_congr cmd (.loadRow c), reflectPadBody_ok_congr cmd .reflectPad,
    specStoreBody_ok_congr cmd (.specStore c)]
  constructor
  · rintro ⟨s1, h1, s2, h2, s3, h3, h4⟩
    exact ⟨s3, ⟨s2, ⟨s1, h1, s2, h2, rfl⟩, h3⟩, t, h4, rfl⟩
  · rintro ⟨s3, ⟨_, ⟨s1, h1, s2, h2, rfl⟩, h3⟩, _, h4, rfl⟩
    exact ⟨s1, h1, _, h2, s3, h3, h4⟩

/-- The body of ISTFT, under any command, is the sequence of its micro-commands' bodies (R362). -/
theorem istftBody_ok_iff_bodySeq (cmd : Instr) (c : Nat) (s t : State) :
    istftBody cmd c s = .ok t ↔ bodySeq (istftSteps c s.gNB) s = .ok t := by
  have hframes := forFrames_ok_iff_bodySeq (mk := .frameInv)
    (fun f => frameInvBody_ok_congr cmd (.frameInv f) f) s.gNB 0
  rw [← List.range_eq_range'] at hframes
  rw [istftSteps, bodySeq_append_ok_iff, istftBody_ok_iff]
  simp only [bodySeq_append_ok_iff, bodySeq_cons_ok_iff, ← hframes, bodySeq_nil_ok_iff]
  simp only [bodyOf, specLoadBody_ok_congr cmd (.specLoad c), rowStoreBody_ok_congr cmd (.rowStore c),
    Except.ok.injEq]
  constructor
  · rintro ⟨s1, h1, s2, h2, h3⟩
    exact ⟨s2, ⟨_, ⟨s1, h1, _, rfl, rfl⟩, h2⟩, t, h3, rfl⟩
  · rintro ⟨s2, ⟨_, ⟨s1, h1, _, rfl, rfl⟩, h2⟩, _, h3, rfl⟩
    exact ⟨s1, h1, s2, h2, h3⟩

/-- The body of STFT_ALL is those of STFT 0 and STFT 1 (R361). -/
theorem stftAll_ok_iff_bodySeq (s t : State) : bodyOf .stftAll s = .ok t ↔ bodySeq [.stft 0, .stft 1] s = .ok t := by
  rw [bodySeq_cons_ok_iff]
  simp only [bodySeq_singleton_ok_iff, bodyOf, stftAllBody_ok_iff, stftBody_ok_iff_bodySeq]

/-- The body of ISTFT_ALL is those of ISTFT 0 and ISTFT 1 (R363). -/
theorem istftAll_ok_iff_bodySeq (s t : State) :
    bodyOf .istftAll s = .ok t ↔ bodySeq [.istft 0, .istft 1] s = .ok t := by
  rw [bodySeq_cons_ok_iff]
  simp only [bodySeq_singleton_ok_iff, bodyOf, istftAllBody_ok_iff, istftBody_ok_iff_bodySeq]

/-- A command without a frame operand is runnable, the setup commands apart. -/
theorem runnable_of_no_frame {i : Instr} (h1 : i ≠ .wsInit) (h2 : i ≠ .winGen) (h : frameOperand i = none) (n : Nat) :
    Runnable n i := ⟨h1, h2, fun f hf => by simp [h] at hf⟩

theorem runnable_stftSteps (c n : Nat) : ∀ i ∈ stftSteps c n, Runnable n i := by
  intro i hi
  simp only [stftSteps, List.mem_append, List.mem_cons, List.mem_map, List.mem_range, List.not_mem_nil, or_false] at hi
  obtain ((rfl | rfl) | ⟨f, hf, rfl⟩) | rfl := hi
  · exact runnable_of_no_frame (by simp) (by simp) rfl n
  · exact runnable_of_no_frame (by simp) (by simp) rfl n
  · exact ⟨by simp, by simp, fun g hg => Option.some.inj hg ▸ hf⟩
  · exact runnable_of_no_frame (by simp) (by simp) rfl n

theorem runnable_istftSteps (c n : Nat) : ∀ i ∈ istftSteps c n, Runnable n i := by
  intro i hi
  simp only [istftSteps, List.mem_append, List.mem_cons, List.mem_map, List.mem_range, List.not_mem_nil, or_false] at hi
  obtain ((rfl | rfl) | ⟨f, hf, rfl⟩) | rfl := hi
  · exact runnable_of_no_frame (by simp) (by simp) rfl n
  · exact runnable_of_no_frame (by simp) (by simp) rfl n
  · exact ⟨by simp, by simp, fun g hg => Option.some.inj hg ▸ hf⟩
  · exact runnable_of_no_frame (by simp) (by simp) rfl n

/-- Settles O35: the bodies are the same sequences, and completing after each of them is completing at the end. -/
theorem driversEqualTheirSteps : Obligations.DriversEqualTheirSteps := by
  unfold Obligations.DriversEqualTheirSteps
  intro s t hv hwin
  have hdriver : ∀ i : Instr, i ≠ .wsInit → i ≠ .winGen → frameOperand i = none → Runnable s.gNB i :=
    fun i h1 h2 h => runnable_of_no_frame h1 h2 h _
  refine ⟨fun c => ⟨?_, ?_⟩, ?_, ?_⟩
  · exact exec_iff_execAll (hdriver (.stft c) (by simp) (by simp) rfl) (runnable_stftSteps c s.gNB) hv hwin
      (stftBody_ok_iff_bodySeq _ c s) t
  · exact exec_iff_execAll (hdriver (.istft c) (by simp) (by simp) rfl) (runnable_istftSteps c s.gNB) hv hwin
      (istftBody_ok_iff_bodySeq _ c s) t
  · refine exec_iff_execAll (hdriver _ (by simp) (by simp) rfl) ?_ hv hwin (stftAll_ok_iff_bodySeq s) t
    simpa using ⟨hdriver (.stft 0) (by simp) (by simp) rfl, hdriver (.stft 1) (by simp) (by simp) rfl⟩
  · refine exec_iff_execAll (hdriver _ (by simp) (by simp) rfl) ?_ hv hwin (istftAll_ok_iff_bodySeq s) t
    simpa using ⟨hdriver (.istft 0) (by simp) (by simp) rfl, hdriver (.istft 1) (by simp) (by simp) rfl⟩

end Sys2Proof.Proofs.Sequences
end

section
/-! The micro-commands (41_stft.md R260 to R263, 42_istft.md R310 to R314): each body, given what it reads, and what its
writes leave readable; then completion on top. -/

namespace Sys2Proof.Proofs.MicroCommands

open Sys2Proof.Machine Sys2Proof.Proofs.Stft Sys2Proof.Proofs.HostPort Sys2Proof.Proofs.Execution Sys2Proof.Proofs.Elements
  Sys2Proof.Proofs.Faults Sys2Proof.Proofs.Arrays

/-! ### Completion -/

/-- A command whose checks pass and whose body writes buffers completes with what it wrote (R406). -/
theorem exec_completes {i : Instr} {s u : State} (hchecks : commandError i s = none) (hbody : bodyOf i s = .ok u)
    (hw : WritesOnly s u) : exec i s = .next (succeed u) ∧ Completed s (succeed u) := by
  refine ⟨exec_of_body hchecks hbody, ?_⟩
  obtain ⟨hframe, -⟩ := hw
  show succeed u = { succeed s with mem := u.mem }
  rw [hframe]
  rfl

@[simp] theorem byteAt_succeed (s : State) (a : Nat) : (succeed s).byteAt a = s.byteAt a := rfl

@[simp] theorem complexAt_succeed (s : State) (b : Buffer) (e : Nat) : (succeed s).complexAt b e = s.complexAt b e := rfl

/-! ### Writes of other buffers -/

/-- A range inside the active length is active. -/
theorem inBuffer_of_covers {s : State} {b : Buffer} {start n a : Nat} (h : b.Covers start n a)
    (hfit : start + n ≤ b.len s) : s.InBuffer b a := covers_mono h (Nat.zero_le _) (by omega)

/-- Active ranges of two buffers are apart. -/
theorem covers_ne {s : State} (hs : Latched s) {b b' : Buffer} (hne : b ≠ b') {start n start' n' a : Nat}
    (hfit : start + n ≤ b.len s) (hfit' : start' + n' ≤ b'.len s) (h : b.Covers start n a) :
    ¬ b'.Covers start' n' a :=
  fun h' => inBuffer_disjoint hs hne (inBuffer_of_covers h hfit) (inBuffer_of_covers h' hfit')

section
variable {s : State} (hs : Latched s) (t : State) {b b' : Buffer} (hne : b ≠ b') {start start' : Nat}

include hs hne

theorem readsAs_writeReals_ne (hb : b.elemSize = 4) (hb' : b'.elemSize = 4) {x vs : List Word}
    (hfit : start + x.length ≤ b.len s) (hfit' : start' + vs.length ≤ b'.len s) (h : t.ReadsAs b start x) :
    (writeReals b' start' vs t).ReadsAs b start x :=
  readsAs_of_bytes hb (fun _ ha => byteAt_writeReals_of_not _ hb' _ _ _ _ (covers_ne hs hne hfit hfit' ha)) h

theorem readsAs_writeComplexes_ne (hb : b.elemSize = 4) (hb' : b'.elemSize = 8) {x : List Word} {zs : List (Word × Word)}
    (hfit : start + x.length ≤ b.len s) (hfit' : start' + zs.length ≤ b'.len s) (h : t.ReadsAs b start x) :
    (writeComplexes b' start' zs t).ReadsAs b start x :=
  readsAs_of_bytes hb (fun _ ha => byteAt_writeComplexes_of_not _ hb' _ _ _ _ (covers_ne hs hne hfit hfit' ha)) h

theorem complexAt_writeReals_ne (hb : b.elemSize = 8) (hb' : b'.elemSize = 4) {vs : List Word}
    (hfit' : start' + vs.length ≤ b'.len s) {e : Nat} (he : e < b.len s) :
    (writeReals b' start' vs t).complexAt b e = t.complexAt b e :=
  complexAt_of_bytes hb (start := 0) (n := b.len s)
    (fun _ ha => byteAt_writeReals_of_not _ hb' _ _ _ _ (covers_ne hs hne (by omega) hfit' ha)) (by omega) (by omega)

theorem complexAt_writeComplexes_ne (hb : b.elemSize = 8) (hb' : b'.elemSize = 8) {zs : List (Word × Word)}
    (hfit' : start' + zs.length ≤ b'.len s) {e : Nat} (he : e < b.len s) :
    (writeComplexes b' start' zs t).complexAt b e = t.complexAt b e :=
  complexAt_of_bytes hb (start := 0) (n := b.len s)
    (fun _ ha => byteAt_writeComplexes_of_not _ hb' _ _ _ _ (covers_ne hs hne (by omega) hfit' ha)) (by omega) (by omega)

end

/-- A write leaves what its own buffer holds apart from it. -/
theorem readsAs_writeReals_apart {b : Buffer} (hb : b.elemSize = 4) {s : State} {start start' : Nat} {x vs : List Word}
    (hapart : start + x.length ≤ start' ∨ start' + vs.length ≤ start) (h : s.ReadsAs b start x) :
    (writeReals b start' vs s).ReadsAs b start x :=
  readsAs_of_bytes hb (fun _ ha => byteAt_writeReals_of_not _ hb _ _ _ _ fun h' => covers_apart ha h' hapart) h

/-- Two adjacent ranges. -/
theorem readsAs_append {s : State} {b : Buffer} {start : Nat} {x y : List Word} (hx : s.ReadsAs b start x)
    (hy : s.ReadsAs b (start + x.length) y) : s.ReadsAs b start (x ++ y) := by
  intro i hi
  rw [List.length_append] at hi
  by_cases h : i < x.length
  · rw [hx i h, List.getElem?_append_left h]
  · rw [List.getElem?_append_right (by omega), ← hy (i - x.length) (by omega)]
    congr 1
    omega

/-! ### LOAD_ROW -/

/-- LOAD_ROW's body on a row that holds values (R260). -/
theorem loadRowBody_of_row (cmd : Instr) {c : Nat} {s : State} {x : List Word} (hlen : x.length = s.gN)
    (hx : s.ReadsAs .wave (c * s.gN) x) : loadRowBody cmd c s = .ok (writeReals .padded s.gP x s) :=
  (loadRowBody_ok_iff _ _ _ _).2 ⟨x, hlen, hx, rfl⟩

/-- Settles O21: the row is read, and written to the centre of PADDED. -/
theorem loadRowCopiesTheRow : Obligations.LoadRowCopiesTheRow := by
  unfold Obligations.LoadRowCopiesTheRow
  intro c s x hv hlen hx
  have hbody := loadRowBody_of_row (.loadRow c) hlen hx
  have hchecks : commandError (.loadRow c) s = none := commandError_of_ready (by simp) hv (by simp [needsWin]) rfl
  obtain ⟨hexec, hcompleted⟩ := exec_completes hchecks hbody (loadRowBody_writesOnly hbody)
  exact ⟨_, hexec, hcompleted, realAt_writeReals _ rfl _ _ _, fun a ha => byteAt_loadRow hbody ha⟩

/-! ### REFLECT_PAD -/

/-- The left pad is x[P], ..., x[1] (R261). -/
theorem leftPad_getElem? {α : Type} {P j : Nat} {x : List α} (hP : P + 1 ≤ x.length) (hj : j < P) :
    (leftPad P x)[j]? = x[P - j]? := by
  unfold leftPad
  rw [List.getElem?_reverse (by simp; omega), List.getElem?_take, if_pos (by simp; omega), List.getElem?_drop]
  congr 1
  simp
  omega

/-- The right pad is x[N - 2], ..., x[N - 1 - P] (R261). -/
theorem rightPad_getElem? {α : Type} {P j : Nat} {x : List α} (hP : P + 1 ≤ x.length) (hj : j < P) :
    (rightPad P x)[j]? = x[x.length - 2 - j]? := by
  unfold rightPad
  rw [List.getElem?_reverse (by simp; omega), List.getElem?_take, if_pos (by simp; omega), List.getElem?_drop]
  congr 1
  simp
  omega

theorem leftPad_length {α : Type} {P : Nat} {x : List α} (hP : P + 1 ≤ x.length) : (leftPad P x).length = P := by
  simp [leftPad]
  omega

theorem rightPad_length {α : Type} {P : Nat} {x : List α} (hP : P + 1 ≤ x.length) : (rightPad P x).length = P := by
  simp [rightPad]
  omega

/-- The four writes of the pads of a centre x. -/
def padsWritten (x : List Word) (s : State) : State :=
  writePads ((x.drop 1).take s.gP) ((x.drop (x.length - 1 - s.gP)).take s.gP) s

/-- REFLECT_PAD's body on a centre that holds values (R261). -/
theorem reflectPadBody_of_centre (cmd : Instr) {s : State} {x : List Word} (hs : Latched s) (hlen : x.length = s.gN)
    (hx : s.ReadsAs .padded s.gP x) : reflectPadBody cmd s = .ok (padsWritten x s) := by
  obtain ⟨-, -, -, -, -, hPN, -⟩ := geometry_of_latched hs
  refine (reflectPadBody_ok_iff _ _ _).2 ⟨_, _, by simp; omega, readsAs_slice hx 1 s.gP, by simp; omega, ?_, rfl⟩
  have := readsAs_slice hx (x.length - 1 - s.gP) s.gP
  rwa [show s.gP + (x.length - 1 - s.gP) = s.gN - 1 by omega] at this

/-- The four writes one by one. -/
theorem padsWritten_eq (x : List Word) (s : State) :
    padsWritten x s = writeReals .padded (s.gP + s.gN) (rightPad s.gP x) (writeReals .padded 0 (leftPad s.gP x)
      (writeReals .padEnd 0 (rightPad s.gP x) (writeReals .padStart 0 (leftPad s.gP x) s))) := rfl

/-- What the scratch vectors and PADDED hold after the writes of the pads (R261). -/
theorem padsWritten_reads {s : State} {x : List Word} (hs : Latched s) (hlen : x.length = s.gN)
    (hx : s.ReadsAs .padded s.gP x) :
    (padsWritten x s).ReadsAs .padStart 0 (leftPad s.gP x) ∧ (padsWritten x s).ReadsAs .padEnd 0 (rightPad s.gP x) ∧
      (padsWritten x s).ReadsAs .padded 0 (leftPad s.gP x) ∧ (padsWritten x s).ReadsAs .padded s.gP x ∧
      (padsWritten x s).ReadsAs .padded (s.gP + s.gN) (rightPad s.gP x) := by
  obtain ⟨-, -, -, -, -, hPN, hL, -⟩ := geometry_of_latched hs
  have hleft : (leftPad s.gP x).length = s.gP := leftPad_length (by omega)
  have hright : (rightPad s.gP x).length = s.gP := rightPad_length (by omega)
  have fleft : 0 + (leftPad s.gP x).length ≤ Buffer.padded.len s := by simp only [Buffer.len]; omega
  have fright : s.gP + s.gN + (rightPad s.gP x).length ≤ Buffer.padded.len s := by simp only [Buffer.len]; omega
  have fcentre : s.gP + x.length ≤ Buffer.padded.len s := by simp only [Buffer.len]; omega
  have fstart : 0 + (leftPad s.gP x).length ≤ Buffer.padStart.len s := by simp only [Buffer.len]; omega
  have fend : 0 + (rightPad s.gP x).length ≤ Buffer.padEnd.len s := by simp only [Buffer.len]; omega
  rw [padsWritten_eq]
  refine ⟨?_, ?_, ?_, ?_, realAt_writeReals _ rfl _ _ _⟩
  · refine readsAs_writeReals_ne hs _ (by decide) rfl rfl fstart fright ?_
    refine readsAs_writeReals_ne hs _ (by decide) rfl rfl fstart fleft ?_
    exact readsAs_writeReals_ne hs _ (by decide) rfl rfl fstart fend (realAt_writeReals _ rfl _ _ _)
  · refine readsAs_writeReals_ne hs _ (by decide) rfl rfl fend fright ?_
    exact readsAs_writeReals_ne hs _ (by decide) rfl rfl fend fleft (realAt_writeReals _ rfl _ _ _)
  · exact readsAs_writeReals_apart rfl (.inl (by omega)) (realAt_writeReals _ rfl _ _ _)
  · refine readsAs_writeReals_apart rfl (.inl (by omega)) (readsAs_writeReals_apart rfl (.inr (by omega)) ?_)
    refine readsAs_writeReals_ne hs _ (by decide) rfl rfl fcentre fend ?_
    exact readsAs_writeReals_ne hs _ (by decide) rfl rfl fcentre fstart hx

/-- PADDED holds the padded row after the writes of the pads (R265). -/
theorem padsWritten_paddedRow {s : State} {x : List Word} (hs : Latched s) (hlen : x.length = s.gN)
    (hx : s.ReadsAs .padded s.gP x) : (padsWritten x s).ReadsAs .padded 0 (paddedRow s.gP x) := by
  obtain ⟨-, -, -, -, -, hPN, -⟩ := geometry_of_latched hs
  obtain ⟨-, -, hleft, hcentre, hright⟩ := padsWritten_reads hs hlen hx
  have hlenl : (leftPad s.gP x).length = s.gP := leftPad_length (by omega)
  refine readsAs_append (readsAs_append hleft ?_) ?_
  · rwa [hlenl, Nat.zero_add]
  · rwa [List.length_append, hlenl, hlen, Nat.zero_add]

/-- Settles O22: the centre is read, and the pads and the scratch vectors are its mirrored ends. -/
theorem reflectPadMirrorsTheCentre : Obligations.ReflectPadMirrorsTheCentre := by
  unfold Obligations.ReflectPadMirrorsTheCentre
  intro s x hv hg hlen hx
  have hs : Latched s := ⟨hg, hv⟩
  obtain ⟨-, -, -, -, -, hPN, -⟩ := geometry_of_latched hs
  have hbody := reflectPadBody_of_centre .reflectPad hs hlen hx
  have hchecks : commandError .reflectPad s = none := commandError_of_ready (by simp) hv (by simp [needsWin]) rfl
  obtain ⟨hexec, hcompleted⟩ := exec_completes hchecks hbody (reflectPadBody_writesOnly hbody)
  obtain ⟨hstart, hend, hleft, hcentre, hright⟩ := padsWritten_reads hs hlen hx
  refine ⟨_, hexec, hcompleted, hcentre, fun j hj => ?_, fun a h1 h2 h3 h4 => byteAt_reflectPad hbody h1 h2 h3 h4⟩
  have hlenl : (leftPad s.gP x).length = s.gP := leftPad_length (by omega)
  have hlenr : (rightPad s.gP x).length = s.gP := rightPad_length (by omega)
  have hl : (leftPad s.gP x)[j]? = x[s.gP - j]? := leftPad_getElem? (by omega) hj
  have hr : (rightPad s.gP x)[j]? = x[s.gN - 2 - j]? := by rw [← hlen]; exact rightPad_getElem? (by omega) hj
  rw [← hl, ← hr, ← hstart j (by omega), ← hright j (by omega)]
  have h0 := hleft j (by omega)
  have h1 := hstart j (by omega)
  have h2 := hend j (by omega)
  have h3 := hright j (by omega)
  rw [Nat.zero_add] at h0 h1 h2 ⊢
  exact ⟨rfl, h0.trans h1.symm, h2.trans h3.symm, rfl⟩

/-! ### Rows of a matrix -/

/-- The element of row i and column j in row-major order. -/
theorem getElem?_flatMap_rows {α : Type} {m n i j : Nat} (g : Nat → Nat → α) (hi : i < m) (hj : j < n) :
    ((List.range m).flatMap fun i => (List.range n).map (g i))[i * n + j]? = some (g i j) := by
  induction m with
  | zero => omega
  | succ m ih =>
    rw [List.range_succ, List.flatMap_append, List.flatMap_singleton]
    by_cases him : i < m
    · rw [List.getElem?_append_left (by rw [length_flatMap_rows]; exact rowMajor_lt him hj), ih him]
    · obtain rfl : i = m := by omega
      rw [List.getElem?_append_right (by rw [length_flatMap_rows]; omega), length_flatMap_rows, Nat.add_sub_cancel_left]
      simp [hj]

/-- Reading a matrix in row-major order, when each of its elements is where `idx` says. -/
theorem map_flatMap_rows {α β : Type} {m n : Nat} {idx : Nat → Nat → α} {g : Nat → Nat → β} {read : α → Option β}
    (h : ∀ i j, i < m → j < n → read (idx i j) = some (g i j)) :
    ((List.range m).flatMap fun i => (List.range n).map (idx i)).map read =
      ((List.range m).flatMap fun i => (List.range n).map (g i)).map some := by
  simp only [List.map_flatMap, List.map_map]
  refine List.flatMap_congr fun i hi => List.map_congr_left fun j hj => ?_
  exact h i j (List.mem_range.1 hi) (List.mem_range.1 hj)

/-! ### FRAME_FWD -/

/-- With both flags set and the frame in range, the checks of a frame command pass (R402). -/
theorem commandError_frame {i : Instr} {f : Nat} {s : State} (hi : i = .frameFwd f ∨ i = .frameInv f)
    (hv : s.wsValid = true) (hwin : s.winValid = true) (hf : f < s.gNB) : commandError i s = none := by
  refine commandError_of_ready (by rcases hi with rfl | rfl <;> simp) hv (fun _ => hwin) ?_
  rcases hi with rfl | rfl <;> exact decide_eq_false (by omega)

/-- FRAME_FWD's body on a segment and a window that hold values (R262). -/
theorem frameFwdBody_of_segment (cmd : Instr) {f : Nat} {s : State} {x w : List Word} (hx : x.length = s.gW)
    (hw : w.length = s.gW) (hrx : s.ReadsAs .padded (f * s.gH) x) (hrw : s.ReadsAs .window 0 w) :
    frameFwdBody cmd f s = .ok (writeForwardFrame f x w s) :=
  (frameFwdBody_ok_iff _ _ _ _).2 ⟨x, w, hx, hrx, hw, hrw, rfl⟩

/-- A row of CFRAMES lies in it. -/
theorem cframes_row_fits {s : State} {f : Nat} (hf : f < s.gNB) :
    f * s.gNBINS + s.gNBINS ≤ Buffer.cframes.len s := by
  have : (f + 1) * s.gNBINS ≤ s.gNB * s.gNBINS := Nat.mul_le_mul_right _ hf
  rw [Nat.succ_mul] at this
  exact this

/-- What WINDOWED and the frame's row of CFRAMES hold after the two writes (R262). -/
theorem writeForwardFrame_reads {f : Nat} {s : State} {x w : List Word} (hs : Latched s) (hf : f < s.gNB)
    (hx : x.length = s.gW) (hw : w.length = s.gW) :
    (writeForwardFrame f x w s).ReadsAs .windowed 0 (windowSegment binary32 x w) ∧
      (writeForwardFrame f x w s).ReadsComplexAs .cframes (f * s.gNBINS)
        (forwardSpectrum binary32 s.gW s.gNBINS s.fwdScale (windowSegment binary32 x w)) := by
  have hlen : (windowSegment binary32 x w).length = s.gW := by rw [windowSegment_length, hx, hw, Nat.min_self]
  refine ⟨?_, complexAt_writeComplexes _ rfl _ _ _⟩
  refine readsAs_writeComplexes_ne hs _ (by decide) rfl rfl ?_ ?_ (realAt_writeReals _ rfl _ _ _)
  · simp only [Buffer.len]; omega
  · rw [forwardSpectrum_length]
    exact cframes_row_fits hf

/-- Settles O24: segment and window are read, and the two results are where FRAME_FWD writes them. -/
theorem frameFwdTransformsTheSegment : Obligations.FrameFwdTransformsTheSegment := by
  unfold Obligations.FrameFwdTransformsTheSegment
  intro f s x w hv hwin hg hf hx hw hrx hrw
  have hbody := frameFwdBody_of_segment (.frameFwd f) hx hw hrx hrw
  obtain ⟨hexec, hcompleted⟩ := exec_completes (commandError_frame (.inl rfl) hv hwin hf) hbody
    (frameFwdBody_writesOnly hbody)
  obtain ⟨hwindowed, hframe⟩ := writeForwardFrame_reads ⟨hg, hv⟩ hf hx hw
  refine ⟨_, hexec, hcompleted, hwindowed, by simp [hx, hw], fun b hb => ?_, fun a h1 h2 => byteAt_frameFwd hbody h1 h2⟩
  have := hframe b (by rwa [forwardSpectrum_length])
  rw [complexAt_succeed, this]
  simp [forwardSpectrum, hb]
  rfl

/-! ### SPEC_STORE and SPEC_LOAD -/

/-- SPEC_STORE's body on a frame table that holds values (R263). -/
theorem specStoreBody_of_frames (cmd : Instr) {c : Nat} {s : State} {z : Nat → Nat → Word × Word}
    (hz : ∀ f b, f < s.gNB → b < s.gNBINS → s.complexAt .cframes (f * s.gNBINS + b) = some (z f b)) :
    specStoreBody cmd c s = .ok (writeComplexes .spec (s.specIndex c 0 0)
      ((List.range s.gNBINS).flatMap fun b => (List.range s.gNB).map fun f => z f b) s) := by
  refine (specStoreBody_ok_iff _ _ _ _).2 ⟨_, ?_, rfl⟩
  exact map_flatMap_rows (idx := fun b f => s.cframeIndex f b) (g := fun b f => z f b) fun b f hb hf => hz f b hf hb

/-- What SPEC[c] holds after its write, bin by bin and frame by frame (R125, R263). -/
theorem spec_written {c : Nat} {s : State} (z : Nat → Nat → Word × Word) {f b : Nat} (hf : f < s.gNB) (hb : b < s.gNBINS) :
    (writeComplexes .spec (s.specIndex c 0 0)
      ((List.range s.gNBINS).flatMap fun b => (List.range s.gNB).map fun f => z f b) s).complexAt .spec
        ((c * s.gNBINS + b) * s.gNB + f) = some (z f b) := by
  have hread := complexAt_writeComplexes .spec rfl (s.specIndex c 0 0)
    ((List.range s.gNBINS).flatMap fun b => (List.range s.gNB).map fun f => z f b) s (b * s.gNB + f)
    (by rw [length_flatMap_rows]; exact rowMajor_lt hb hf)
  rw [getElem?_flatMap_rows (fun b f => z f b) hb hf] at hread
  rw [← hread, specIndex_zero]
  congr 1
  ring

/-- Settles O25: the frame table is read bin by bin and written in that order. -/
theorem specStoreTransposesTheFrames : Obligations.SpecStoreTransposesTheFrames := by
  unfold Obligations.SpecStoreTransposesTheFrames
  intro c s z hv hz
  have hbody := specStoreBody_of_frames (.specStore c) (c := c) hz
  have hchecks : commandError (.specStore c) s = none := commandError_of_ready (by simp) hv (by simp [needsWin]) rfl
  obtain ⟨hexec, hcompleted⟩ := exec_completes hchecks hbody (specStoreBody_writesOnly hbody)
  exact ⟨_, hexec, hcompleted, fun f b hf hb => spec_written z hf hb, fun a ha => byteAt_specStore hbody ha⟩

/-- SPEC_LOAD's body on a channel of SPEC that holds values (R310). -/
theorem specLoadBody_of_spec (cmd : Instr) {c : Nat} {s : State} {z : Nat → Nat → Word × Word}
    (hz : ∀ f b, f < s.gNB → b < s.gNBINS → s.complexAt .spec ((c * s.gNBINS + b) * s.gNB + f) = some (z f b)) :
    specLoadBody cmd c s = .ok (writeComplexes .cframes 0
      ((List.range s.gNB).flatMap fun f => (List.range s.gNBINS).map (z f)) s) := by
  refine (specLoadBody_ok_iff _ _ _ _).2 ⟨_, ?_, rfl⟩
  exact map_flatMap_rows (idx := fun f b => s.specIndex c b f) (g := z) fun f b hf hb => hz f b hf hb

/-- What CFRAMES holds after its write, frame by frame and bin by bin (R126, R310). -/
theorem cframes_written (z : Nat → Nat → Word × Word) {s : State} {f b : Nat} (hf : f < s.gNB) (hb : b < s.gNBINS) :
    (writeComplexes .cframes 0 ((List.range s.gNB).flatMap fun f => (List.range s.gNBINS).map (z f)) s).complexAt .cframes
      (f * s.gNBINS + b) = some (z f b) := by
  have hread := complexAt_writeComplexes .cframes rfl 0
    ((List.range s.gNB).flatMap fun f => (List.range s.gNBINS).map (z f)) s (f * s.gNBINS + b)
    (by rw [length_flatMap_rows]; exact rowMajor_lt hf hb)
  rwa [getElem?_flatMap_rows z hf hb, Nat.zero_add] at hread

/-- Settles O26: the channel is read frame by frame and written in that order. -/
theorem specLoadTransposesTheTensor : Obligations.SpecLoadTransposesTheTensor := by
  unfold Obligations.SpecLoadTransposesTheTensor
  intro c s z hv hz
  have hbody := specLoadBody_of_spec (.specLoad c) (c := c) hz
  have hchecks : commandError (.specLoad c) s = none := commandError_of_ready (by simp) hv (by simp [needsWin]) rfl
  obtain ⟨hexec, hcompleted⟩ := exec_completes hchecks hbody (specLoadBody_writesOnly hbody)
  exact ⟨_, hexec, hcompleted, fun f b hf hb => cframes_written z hf hb, fun a ha => byteAt_specLoad hbody ha⟩

/-! ### ACC_CLEAR and ROW_STORE -/

/-- OUTACC holds zeros after ACC_CLEAR's body (R311). -/
theorem accClear_reads (s : State) : (accClearBody s).ReadsAs .outacc 0 (List.replicate s.gL (numOfNat 0)) :=
  realAt_writeReals _ rfl _ _ _

/-- Settles O27: the body is total and writes +0 to the whole of OUTACC. -/
theorem accClearZeroesTheAccumulator : Obligations.AccClearZeroesTheAccumulator := by
  unfold Obligations.AccClearZeroesTheAccumulator
  intro s hv
  have hchecks : commandError .accClear s = none := commandError_of_ready (by simp) hv (by simp [needsWin]) rfl
  obtain ⟨hexec, hcompleted⟩ := exec_completes hchecks (u := accClearBody s) rfl (accClearBody_writesOnly s)
  refine ⟨_, hexec, hcompleted, fun k hk => ?_, fun a ha => byteAt_accClear s ha⟩
  have := accClear_reads s k (by simpa using hk)
  rw [List.getElem?_replicate, if_pos hk, Nat.zero_add, numOfNat_zero] at this
  exact this

/-- ROW_STORE's body on a centre that holds values (R314). -/
theorem rowStoreBody_of_centre (cmd : Instr) {c : Nat} {s : State} {x : List Word} (hlen : x.length = s.gN)
    (hx : s.ReadsAs .outacc s.gP x) : rowStoreBody cmd c s = .ok (writeReals .wave (s.waveIndex c 0) x s) :=
  (rowStoreBody_ok_iff _ _ _ _).2 ⟨x, hlen, hx, rfl⟩

/-- Settles O30: the centre is read, and written to the row. -/
theorem rowStoreCopiesTheCentre : Obligations.RowStoreCopiesTheCentre := by
  unfold Obligations.RowStoreCopiesTheCentre
  intro c s x hv hlen hx
  have hbody := rowStoreBody_of_centre (.rowStore c) (c := c) hlen hx
  have hchecks : commandError (.rowStore c) s = none := commandError_of_ready (by simp) hv (by simp [needsWin]) rfl
  obtain ⟨hexec, hcompleted⟩ := exec_completes hchecks hbody (rowStoreBody_writesOnly hbody)
  exact ⟨_, hexec, hcompleted, realAt_writeReals _ rfl _ _ _, fun a ha => byteAt_rowStore hbody ha⟩

/-! ### FRAME_INV -/

/-- FRAME_INV's body on a frame, an accumulator slice, a window and a NORM slice that hold values (R312). -/
theorem frameInvBody_of_operands (cmd : Instr) {f : Nat} {s : State} {z : List (Word × Word)} {a w n : List Word}
    (hz : z.length = s.gNBINS) (ha : a.length = s.gW) (hw : w.length = s.gW) (hn : n.length = s.gW)
    (hrz : s.ReadsComplexAs .cframes (f * s.gNBINS) z) (hra : s.ReadsAs .outacc (f * s.gH) a)
    (hrw : s.ReadsAs .window 0 w) (hrn : s.ReadsAs .norm (f * s.gH) n) :
    frameInvBody cmd f s = .ok (writeInverseFrame f z a w n s) :=
  (frameInvBody_ok_iff _ _ _ _).2 ⟨z, a, w, n, hz, hrz, ha, hra, hw, hrw, hn, hrn, rfl⟩

/-- The samples of a frame scaled by CI (R312). -/
def frameSamples (s : State) (z : List (Word × Word)) : List Word :=
  inverseSamples binary32 s.gW (unscaleFrame binary32 s.invScale z)

/-- The terms of a frame (R312). -/
def frameTerms (s : State) (z : List (Word × Word)) (w n : List Word) : List Word :=
  synthesisTerms binary32 s.gW s.actEps (frameSamples s z) w n

theorem frameTerms_length {s : State} {z : List (Word × Word)} {w n : List Word} (hw : w.length = s.gW)
    (hn : n.length = s.gW) : (frameTerms s z w n).length = s.gW := by
  simp [frameTerms, frameSamples, hw, hn]

theorem getElem?_eq_getD {α : Type} {x : List α} {i : Nat} (hi : i < x.length) (d : α) : x[i]? = some (x.getD i d) := by
  rw [List.getD_eq_getElem?_getD, List.getElem?_eq_getElem hi, Option.getD_some]

/-- The i-th term of a frame (R11, R312, R313). -/
theorem frameTerms_getElem? {s : State} {z : List (Word × Word)} {w n : List Word} (hw : w.length = s.gW)
    (hn : n.length = s.gW) {i : Nat} (hi : i < s.gW) :
    (frameTerms s z w n)[i]? = some (numDiv (numDiv
      (numMul (binary32.fftInv s.gW (unscaleFrame binary32 s.invScale z) i) (w.getD i 0#32)) (numOfNat s.gW))
      (numAdd (n.getD i 0#32) s.actEps)) := by
  simp only [frameTerms, frameSamples, synthesisTerms, inverseSamples, List.getElem?_zipWith, List.getElem?_map,
    List.getElem?_range hi, List.zip_eq_zipWith, getElem?_eq_getD (show i < w.length by omega) 0#32,
    getElem?_eq_getD (show i < n.length by omega) 0#32]
  rfl

/-- What the frame, WINDOWED and the accumulator slice hold after the three writes (R312). -/
theorem writeInverseFrame_reads {f : Nat} {s : State} {z : List (Word × Word)} {a w n : List Word} (hs : Latched s)
    (hf : f < s.gNB) (hz : z.length = s.gNBINS) (ha : a.length = s.gW) (hw : w.length = s.gW) (hn : n.length = s.gW) :
    (writeInverseFrame f z a w n s).ReadsComplexAs .cframes (f * s.gNBINS) (unscaleFrame binary32 s.invScale z) ∧
      (writeInverseFrame f z a w n s).ReadsAs .windowed 0 (frameSamples s z) ∧
      (writeInverseFrame f z a w n s).ReadsAs .outacc (f * s.gH) (List.zipWith numAdd a (frameTerms s z w n)) := by
  have hsamples : (frameSamples s z).length = s.gW := inverseSamples_length _ _ _
  have hsum : (List.zipWith numAdd a (frameTerms s z w n)).length = s.gW := by
    rw [List.length_zipWith, frameTerms_length hw hn, ha, Nat.min_self]
  have facc : f * s.gH + (List.zipWith numAdd a (frameTerms s z w n)).length ≤ Buffer.outacc.len s := by
    rw [hsum]; exact frame_in_range hs hf
  have fwin : 0 + (frameSamples s z).length ≤ Buffer.windowed.len s := by simp only [Buffer.len]; omega
  refine ⟨fun b hb => ?_, ?_, realAt_writeReals _ rfl _ _ _⟩
  · have hrow := cframes_row_fits hf
    rw [unscaleFrame_length, hz] at hb
    have hin : f * s.gNBINS + b < Buffer.cframes.len s := by omega
    refine (complexAt_writeReals_ne hs _ (by decide) rfl rfl facc hin).trans ?_
    refine (complexAt_writeReals_ne hs _ (by decide) rfl rfl fwin hin).trans ?_
    exact complexAt_writeComplexes _ rfl _ _ _ b (by rw [unscaleFrame_length, hz]; exact hb)
  · exact readsAs_writeReals_ne hs _ (by decide) rfl rfl fwin facc (realAt_writeReals _ rfl _ _ _)

/-- Settles O28: the operands are read, and the three results are where FRAME_INV writes them. -/
theorem frameInvOverlapAdds : Obligations.FrameInvOverlapAdds := by
  unfold Obligations.FrameInvOverlapAdds
  intro f s z a w n hv hwin hg hf hz ha hw hn hrz hra hrw hrn
  have hbody := frameInvBody_of_operands (.frameInv f) hz ha hw hn hrz hra hrw hrn
  obtain ⟨hexec, hcompleted⟩ := exec_completes (commandError_frame (.inr rfl) hv hwin hf) hbody
    (frameInvBody_writesOnly hbody)
  obtain ⟨hframe, hsamples, hacc⟩ := writeInverseFrame_reads ⟨hg, hv⟩ hf hz ha hw hn
  refine ⟨_, hexec, hcompleted, hframe, fun i hi => ⟨_, rfl, ?_, ?_⟩,
    fun k h1 h2 h3 => byteAt_frameInv hbody h1 h2 h3⟩
  · have := hsamples i (by rwa [frameSamples, inverseSamples_length])
    rw [Nat.zero_add] at this
    rw [realAt_succeed, this]
    simp [frameSamples, inverseSamples, hi]
    rfl
  · have := hacc i (by rwa [List.length_zipWith, frameTerms_length hw hn, ha, Nat.min_self])
    rw [realAt_succeed, this, List.getElem?_zipWith, frameTerms_getElem? hw hn hi, getElem?_eq_getD (by omega) 0#32]
    rfl

/-- Settles O29: at bins 0 and W/2 only the real parts are left, and elsewhere the two frames agree. -/
theorem edgeImaginaryPartsAreIgnored : Obligations.EdgeImaginaryPartsAreIgnored := by
  unfold Obligations.EdgeImaginaryPartsAreIgnored
  intro W ci z z' hlen h
  have hdrop : dropEdgeIm W (unscaleFrame binary32 ci z) = dropEdgeIm W (unscaleFrame binary32 ci z') := by
    refine List.ext_getElem (by simp [dropEdgeIm, hlen]) fun k hk hk' => ?_
    have hkz : k < z.length := by simpa [dropEdgeIm] using hk
    obtain ⟨hre, hmid⟩ := h k hkz
    rw [List.getElem?_eq_getElem hkz, List.getElem?_eq_getElem (hlen ▸ hkz)] at hre hmid
    simp only [dropEdgeIm, List.getElem_mapIdx, unscaleFrame, List.getElem_map, scale]
    split
    · rw [show z[k].1 = z'[k].1 from Option.some.inj hre]
    · rename_i hedge
      rw [not_or] at hedge
      rw [Option.some.inj (hmid hedge.1 hedge.2)]
  exact congrArg (fun X => (List.range W).map (Config.fftInv W X)) hdrop

end Sys2Proof.Proofs.MicroCommands
end

section
/-! The channel drivers (43_channel_driver.md R360 to R364): what each frame of the two loops leaves readable, the passes as
the functions of Machine/Transform.lean, and the independence of the channels. -/

namespace Sys2Proof.Proofs.Drivers

open Sys2Proof.Machine Sys2Proof.Proofs.Stft Sys2Proof.Proofs.HostPort Sys2Proof.Proofs.Execution
  Sys2Proof.Proofs.Elements Sys2Proof.Proofs.Faults Sys2Proof.Proofs.Arrays Sys2Proof.Proofs.Invariants
  Sys2Proof.Proofs.MicroCommands

/-! ### Loops -/

/-- A loop of frames runs when each frame does and hands on what the next one needs. -/
theorem forFrames_rule {body : Nat → State → Except Fault State} (P : Nat → State → Prop) {n : Nat}
    (hstep : ∀ f u, f < n → P f u → ∃ v, body f u = .ok v ∧ P (f + 1) v) {s : State} (hs : P 0 s) :
    ∃ t, forFrames body 0 n s = .ok t ∧ P n t := by
  suffices key : ∀ k start u, start + k = n → P start u → ∃ t, forFrames body start k u = .ok t ∧ P n t from
    key n 0 s (Nat.zero_add n) hs
  intro k
  induction k with
  | zero => intro start u hk hu; exact ⟨u, rfl, by rwa [← hk]⟩
  | succ k ih =>
    intro start u hk hu
    obtain ⟨v, hv, hPv⟩ := hstep start u (by omega) hu
    obtain ⟨t, ht, hPt⟩ := ih (start + 1) v (by omega) hPv
    exact ⟨t, by rw [forFrames, hv]; exact ht, hPt⟩

/-! ### The forward pass -/

/-- Frame f of the forward pass, from the padded row and the window (R262). -/
def forwardFrame (s : State) (p w : List Word) (f : Nat) : List (Word × Word) :=
  forwardSpectrum binary32 s.gW s.gNBINS s.fwdScale (windowSegment binary32 ((p.drop (f * s.gH)).take s.gW) w)

@[simp] theorem forwardFrame_length (s : State) (p w : List Word) (f : Nat) : (forwardFrame s p w f).length = s.gNBINS :=
  forwardSpectrum_length _ _ _ _ _

theorem forwardFrame_of_writesOnly {s t : State} (h : WritesOnly s t) (p w : List Word) (f : Nat) :
    forwardFrame t p w f = forwardFrame s p w f := by
  obtain ⟨hframe, -⟩ := h
  rw [hframe]
  rfl

/-- Before frame n: PADDED and WINDOW hold the operands, and the rows of CFRAMES below n are done. -/
def ForwardDone (p w : List Word) (n : Nat) (s : State) : Prop :=
  s.ReadsAs .padded 0 p ∧ s.ReadsAs .window 0 w ∧
    ∀ f, f < n → s.ReadsComplexAs .cframes (f * s.gNBINS) (forwardFrame s p w f)

/-- Rows of CFRAMES apart from the one written are as before. -/
theorem cframes_rows_apart {s : State} {f g : Nat} (hne : g ≠ f) {a : Nat}
    (ha : Buffer.cframes.Covers (g * s.gNBINS) s.gNBINS a) : ¬ Buffer.cframes.Covers (f * s.gNBINS) s.gNBINS a := by
  intro ha'
  refine covers_apart ha ha' ?_
  rcases Nat.lt_or_gt_of_ne hne with h | h
  · have : (g + 1) * s.gNBINS ≤ f * s.gNBINS := Nat.mul_le_mul_right _ h
    rw [Nat.succ_mul] at this
    omega
  · have : (f + 1) * s.gNBINS ≤ g * s.gNBINS := Nat.mul_le_mul_right _ h
    rw [Nat.succ_mul] at this
    omega

/-- Complex elements whose bytes are as before read as before. -/
theorem readsComplexAs_of_bytes {s t : State} {b : Buffer} (hb : b.elemSize = 8) {start : Nat} {z : List (Word × Word)}
    (hbytes : ∀ a, b.Covers start z.length a → t.byteAt a = s.byteAt a) (h : s.ReadsComplexAs b start z) :
    t.ReadsComplexAs b start z := by
  intro i hi
  rw [← h i hi]
  exact complexAt_of_bytes hb hbytes (by omega) (by omega)

/-- The whole of WINDOWED is in its active part. -/
theorem windowed_fits (s : State) : 0 + s.gW ≤ Buffer.windowed.len s := Nat.le_of_eq (Nat.zero_add _)

/-- One frame of the forward loop (R262). -/
theorem forward_step (cmd : Instr) {s : State} {p w : List Word} {f : Nat} (hs : Latched s) (hp : p.length = s.gL)
    (hw : w.length = s.gW) (hf : f < s.gNB) (h : ForwardDone p w f s) :
    ∃ v, frameFwdBody cmd f s = .ok v ∧ ForwardDone p w (f + 1) v := by
  obtain ⟨hpad, hwin, hrows⟩ := h
  have hfit := frame_in_range hs hf
  have hrowfit := cframes_row_fits hf
  have hpfit : 0 + p.length ≤ Buffer.padded.len s := by simp only [Buffer.len]; omega
  have hwfit : 0 + w.length ≤ Buffer.window.len s := by simp only [Buffer.len]; omega
  have hseg : ((p.drop (f * s.gH)).take s.gW).length = s.gW := by
    rw [List.length_take, List.length_drop]; omega
  have hread := readsAs_slice hpad (f * s.gH) s.gW
  rw [Nat.zero_add] at hread
  have hbody := frameFwdBody_of_segment cmd hseg hw hread hwin
  obtain ⟨-, hrow⟩ := writeForwardFrame_reads hs hf hseg hw
  have hsame := forwardFrame_of_writesOnly (frameFwdBody_writesOnly hbody) p w
  obtain ⟨-, -, -, -, -, -, hBINS⟩ := writesOnly_geometry (frameFwdBody_writesOnly hbody)
  refine ⟨_, hbody, ?_, ?_, fun g hg => ?_⟩
  · exact readsAs_of_bytes rfl (fun a ha => byteAt_frameFwd hbody
      (covers_ne hs (by decide) hpfit (windowed_fits s) ha) (covers_ne hs (by decide) hpfit hrowfit ha)) hpad
  · exact readsAs_of_bytes rfl (fun a ha => byteAt_frameFwd hbody
      (covers_ne hs (by decide) hwfit (windowed_fits s) ha) (covers_ne hs (by decide) hwfit hrowfit ha)) hwin
  · rw [hsame g, hBINS]
    by_cases hgf : g = f
    · subst hgf
      exact hrow
    · refine readsComplexAs_of_bytes rfl (fun a ha => ?_) (hrows g (by omega))
      rw [forwardFrame_length] at ha
      exact byteAt_frameFwd hbody (covers_ne hs (by decide) (cframes_row_fits (by omega)) (windowed_fits s) ha)
        (cframes_rows_apart hgf ha)

/-- The forward loop (R360). -/
theorem forward_loop (cmd : Instr) {s : State} {p w : List Word} (hs : Latched s) (hp : p.length = s.gL)
    (hw : w.length = s.gW) (hpad : s.ReadsAs .padded 0 p) (hwin : s.ReadsAs .window 0 w) :
    ∃ t, forFrames (frameFwdBody cmd) 0 s.gNB s = .ok t ∧ Fills s t ∧ ForwardDone p w s.gNB t := by
  refine forFrames_rule (fun n u => Fills s u ∧ ForwardDone p w n u) (fun f u hf hu => ?_)
    ⟨Fills.refl s, hpad, hwin, fun f hf => by omega⟩
  obtain ⟨hfills, hdone⟩ := hu
  obtain ⟨hW, -, -, -, hL, hNB, -⟩ := writesOnly_geometry hfills.1
  obtain ⟨v, hv, hdone⟩ := forward_step cmd (latched_of_fills hfills hs) (hp.trans hL.symm) (hw.trans hW.symm)
    (by rwa [hNB]) hdone
  exact ⟨v, hv, hfills.trans (frameFwdBody_fills hv), hdone⟩

theorem paddedRow_length {s : State} {x : List Word} (hs : Latched s) (hlen : x.length = s.gN) :
    (paddedRow s.gP x).length = s.gL := by
  obtain ⟨-, -, -, -, -, hPN, hL, -⟩ := geometry_of_latched hs
  rw [paddedRow, List.length_append, List.length_append, leftPad_length (by omega), rightPad_length (by omega)]
  omega

/-- The forward pass holds the forward frames (R360). -/
theorem forwardPass_getElem? {s : State} (x w : List Word) (hs : Latched s) {f : Nat} (hf : f < s.gNB) (b : Nat) :
    ((forwardPass binary32 s.gW s.gH s.gNB s.fwdScale w x)[f]?.bind fun fr => fr[b]?) =
      (forwardFrame s (paddedRow s.gP x) w f)[b]? := by
  obtain ⟨-, -, -, -, hP, -, -, -, -, hBINS⟩ := geometry_of_latched hs
  rw [forwardPass, List.getElem?_map, List.getElem?_range hf, ← hP, ← hBINS]
  rfl

/-- LOAD_ROW and REFLECT_PAD leave the padded row, and WINDOW as it was (R265). -/
theorem load_and_pad (cmd : Instr) {c : Nat} {s : State} {x w : List Word} (hs : Latched s) (hlen : x.length = s.gN)
    (hx : s.ReadsAs .wave (c * s.gN) x) (hw : w.length = s.gW) (hwin : s.ReadsAs .window 0 w) :
    ∃ s1 s2, loadRowBody cmd c s = .ok s1 ∧ reflectPadBody cmd s1 = .ok s2 ∧ Fills s s2 ∧
      s2.ReadsAs .padded 0 (paddedRow s.gP x) ∧ s2.ReadsAs .window 0 w := by
  have hload := loadRowBody_of_row cmd hlen hx
  have hs1 := latched_of_fills (loadRowBody_fills hload) hs
  have hcentre := realAt_writeReals .padded rfl s.gP x s
  have hpad := reflectPadBody_of_centre cmd hs1 hlen hcentre
  refine ⟨_, _, hload, hpad, (loadRowBody_fills hload).trans (reflectPadBody_fills hpad),
    padsWritten_paddedRow hs1 hlen hcentre, readsAs_of_bytes rfl (fun a ha => ?_) hwin⟩
  have hout : OutsideWork s a := outsideWork_of_arrays hs (.inl (by rwa [hw] at ha))
  obtain ⟨h1, h2, h3⟩ := padded_ranges hs hout
  exact (byteAt_reflectPad hpad (hout _ (by decide) (by decide)) (hout _ (by decide) (by decide)) h2 h3).trans
    (byteAt_loadRow hload h1)

/-- The body of STFT on a row that holds values, with the window in place (R360). -/
theorem stftBody_of_row (cmd : Instr) {c : Nat} {s : State} {x w : List Word} (hs : Latched s) (hc : c < 2)
    (hlen : x.length = s.gN) (hx : s.ReadsAs .wave (c * s.gN) x) (hw : w.length = s.gW) (hwin : s.ReadsAs .window 0 w) :
    ∃ t, stftBody cmd c s = .ok t ∧ t.ReadsAs .padded 0 (paddedRow s.gP x) ∧
      ∀ f b, f < s.gNB → b < s.gNBINS → ∃ v, (forwardFrame s (paddedRow s.gP x) w f)[b]? = some v ∧
        t.complexAt .spec ((c * s.gNBINS + b) * s.gNB + f) = some v ∧ t.complexAt .cframes (f * s.gNBINS + b) = some v := by
  obtain ⟨s1, s2, hload, hpad, f2, hpadded, hwin2⟩ := load_and_pad cmd hs hlen hx hw hwin
  obtain ⟨hW2, -, -, -, hL2, hNB2, -⟩ := writesOnly_geometry f2.1
  obtain ⟨u, hloop, hfills, hpaddedu, -, hrows⟩ := forward_loop cmd (latched_of_fills f2 hs)
    ((paddedRow_length hs hlen).trans hL2.symm) (hw.trans hW2.symm) hpadded hwin2
  rw [hNB2] at hloop hrows
  have fu := f2.trans hfills
  have hu := latched_of_fills fu hs
  obtain ⟨-, -, -, -, hLu, hNBu, hBINSu⟩ := writesOnly_geometry fu.1
  have hz : ∀ f b, f < u.gNB → b < u.gNBINS → u.complexAt .cframes (f * u.gNBINS + b) =
      some ((forwardFrame s (paddedRow s.gP x) w f).getD b (0#32, 0#32)) := by
    intro f b hf hb
    rw [hNBu] at hf
    rw [← forwardFrame_of_writesOnly fu.1, ← getElem?_eq_getD (by rwa [forwardFrame_length])]
    exact hrows f hf b (by rwa [forwardFrame_length])
  have hstore := specStoreBody_of_frames cmd (c := c) hz
  have hspecfit : u.specIndex c 0 0 + ((List.range u.gNBINS).flatMap fun b => (List.range u.gNB).map fun f =>
      (forwardFrame s (paddedRow s.gP x) w f).getD b (0#32, 0#32)).length ≤ Buffer.spec.len u := by
    have : (c + 1) * (u.gNBINS * u.gNB) ≤ 2 * (u.gNBINS * u.gNB) := Nat.mul_le_mul_right _ hc
    rw [Nat.succ_mul] at this
    rw [length_flatMap_rows, specIndex_zero]
    simpa [Buffer.len, Nat.mul_assoc] using this
  refine ⟨_, (stftBody_ok_iff _ _ _ _).2 ⟨s1, hload, s2, hpad, u, hloop, hstore⟩, ?_, fun f b hf hb =>
    ⟨_, getElem?_eq_getD (by rwa [forwardFrame_length]) (0#32, 0#32), ?_, ?_⟩⟩
  · refine readsAs_writeComplexes_ne hu u (by decide) rfl rfl ?_ hspecfit hpaddedu
    rw [paddedRow_length hs hlen, Nat.zero_add, ← hLu]
    exact Nat.le_refl _
  · rw [← hBINSu, ← hNBu]
    exact spec_written (fun f b => (forwardFrame s (paddedRow s.gP x) w f).getD b (0#32, 0#32)) (hNBu ▸ hf) (hBINSu ▸ hb)
  · rw [complexAt_writeComplexes_ne hu u (by decide) rfl rfl hspecfit, ← hBINSu]
    · exact hz f b (hNBu ▸ hf) (hBINSu ▸ hb)
    · show f * s.gNBINS + b < u.gNB * u.gNBINS
      rw [hBINSu, hNBu]
      exact rowMajor_lt hf hb

/-- The checks of a driver pass with both flags set (R402). -/
theorem commandError_driver {i : Instr} {s : State} (hi : i ≠ .wsInit) (hframe : frameOperand i = none)
    (hv : s.wsValid = true) (hwin : s.winValid = true) : commandError i s = none :=
  commandError_of_ready hi hv (fun _ => hwin) (by simp [frameTooLarge, hframe])

/-- Settles O31: the body's result, completed, and the bytes it leaves alone. -/
theorem stftComputesTheForwardPass : Obligations.StftComputesTheForwardPass := by
  unfold Obligations.StftComputesTheForwardPass
  intro c s x hc hv hwin hg harrays hlen hx
  have hs : Latched s := ⟨hg, hv⟩
  obtain ⟨hwindow, -⟩ := harrays hwin
  obtain ⟨t, hbody, hpadded, hframes⟩ :=
    stftBody_of_row (.stft c) hs hc hlen hx (state_windowArray_length s) hwindow
  obtain ⟨hexec, hcompleted⟩ := exec_completes (commandError_driver (i := .stft c) (by simp) rfl hv hwin) hbody
    (stftBody_writesOnly hbody)
  refine ⟨_, hexec, hcompleted, fun f b hf hb => ?_, hpadded, fun a h1 h2 h3 h4 h5 h6 =>
    byteAt_stft hs hbody h1 h2 h3 h4 h5 h6⟩
  obtain ⟨v, hval, hspec, hcframes⟩ := hframes f b hf hb
  exact ⟨v, (forwardPass_getElem? x s.windowArray hs hf b).trans hval, hspec, hcframes⟩

/-! ### Both channels -/

/-- The ranges of two channels in a buffer of two equal parts are apart. -/
theorem channels_apart {b : Buffer} {c c' n a : Nat} (hne : c ≠ c') (h : b.Covers (c * n) n a) :
    ¬ b.Covers (c' * n) n a := by
  intro h'
  refine covers_apart h h' ?_
  rcases Nat.lt_or_gt_of_ne hne with hlt | hlt
  · have : (c + 1) * n ≤ c' * n := Nat.mul_le_mul_right _ hlt
    rw [Nat.succ_mul] at this
    omega
  · have : (c' + 1) * n ≤ c * n := Nat.mul_le_mul_right _ hlt
    rw [Nat.succ_mul] at this
    omega

/-- A channel of SPEC, and a row of WAVE, lie in the buffer. -/
theorem channel_fits {n c : Nat} (hc : c < 2) : c * n + n ≤ 2 * n := by
  have : (c + 1) * n ≤ 2 * n := Nat.mul_le_mul_right _ hc
  rwa [Nat.succ_mul] at this

theorem spec_channel_fits (s : State) {c : Nat} (hc : c < 2) :
    c * s.gNBINS * s.gNB + s.gNBINS * s.gNB ≤ Buffer.spec.len s := by
  simpa [Buffer.len, Nat.mul_assoc] using channel_fits (n := s.gNBINS * s.gNB) hc

theorem wave_row_fits (s : State) {c : Nat} (hc : c < 2) : c * s.gN + s.gN ≤ Buffer.wave.len s := channel_fits hc

/-- The bytes of SPEC[c'] after STFT c, and of WAVE in both rows (R360). -/
theorem byteAt_stft_spec_other {cmd : Instr} {c c' : Nat} {s t : State} (hs : Latched s) (hc' : c' < 2)
    (hne : c' ≠ c) (h : stftBody cmd c s = .ok t) {a : Nat}
    (ha : Buffer.spec.Covers (c' * s.gNBINS * s.gNB) (s.gNBINS * s.gNB) a) : t.byteAt a = s.byteAt a := by
  have hin := inBuffer_of_covers ha (spec_channel_fits s hc')
  refine byteAt_stft hs h (fun h => inBuffer_disjoint hs (by decide) hin h) (fun h => inBuffer_disjoint hs (by decide) hin h)
    (fun h => inBuffer_disjoint hs (by decide) hin h) (fun h => inBuffer_disjoint hs (by decide) hin h)
    (fun h => inBuffer_disjoint hs (by decide) hin h) ?_
  rw [Nat.mul_assoc] at ha ⊢
  exact channels_apart hne ha

theorem byteAt_stft_wave {cmd : Instr} {c : Nat} {s t : State} (hs : Latched s) (hc : c < 2)
    (h : stftBody cmd c s = .ok t) {a : Nat} (ha : s.InBuffer .wave a) : t.byteAt a = s.byteAt a :=
  byteAt_stft hs h (fun h => inBuffer_disjoint hs (by decide) ha h) (fun h => inBuffer_disjoint hs (by decide) ha h)
    (fun h => inBuffer_disjoint hs (by decide) ha h) (fun h => inBuffer_disjoint hs (by decide) ha h)
    (fun h => inBuffer_disjoint hs (by decide) ha h)
    (fun h => inBuffer_disjoint hs (by decide) ha (inBuffer_of_covers h (spec_channel_fits s hc)))

/-- The elements of SPEC[c] lie in its range. -/
theorem specIndex_range {s : State} {f b : Nat} (c : Nat) (hf : f < s.gNB) (hb : b < s.gNBINS) :
    c * s.gNBINS * s.gNB ≤ (c * s.gNBINS + b) * s.gNB + f ∧
      (c * s.gNBINS + b) * s.gNB + f < c * s.gNBINS * s.gNB + s.gNBINS * s.gNB := by
  have := rowMajor_lt hb hf
  rw [Nat.add_mul]
  omega

/-- The body of STFT_ALL on two rows that hold values, with the arrays in place (R361). -/
theorem stftAllBody_of_rows (cmd : Instr) {s : State} {x : Nat → List Word} (hs : Latched s) (hwin : s.winValid = true)
    (harrays : s.ArraysValid) (hx : ∀ c, c < 2 → (x c).length = s.gN ∧ s.ReadsAs .wave (c * s.gN) (x c)) :
    ∃ t, stftAllBody cmd s = .ok t ∧
      (∀ c f b, c < 2 → f < s.gNB → b < s.gNBINS → ∃ v,
        (forwardFrame s (paddedRow s.gP (x c)) s.windowArray f)[b]? = some v ∧
          t.complexAt .spec ((c * s.gNBINS + b) * s.gNB + f) = some v) ∧
      ∀ a, ¬ s.InBuffer .padded a → ¬ s.InBuffer .padStart a → ¬ s.InBuffer .padEnd a → ¬ s.InBuffer .windowed a →
        ¬ s.InBuffer .cframes a → ¬ s.InBuffer .spec a → t.byteAt a = s.byteAt a := by
  obtain ⟨hlen0, hx0⟩ := hx 0 (by decide)
  obtain ⟨hlen1, hx1⟩ := hx 1 (by decide)
  have hwlen := state_windowArray_length s
  obtain ⟨u, hfirst, -, hframes0⟩ := stftBody_of_row cmd hs (c := 0) (by decide) hlen0 hx0 hwlen (harrays hwin).1
  have fu := stftBody_fills hfirst
  have hu := latched_of_fills fu hs
  obtain ⟨hWu, -, hNu, hPu, -, hNBu, hBINSu⟩ := writesOnly_geometry fu.1
  have hwinu : u.ReadsAs .window 0 s.windowArray := by
    refine readsAs_of_bytes rfl (fun a ha => ?_) (harrays hwin).1
    rw [hwlen] at ha
    exact byteAt_stft_of_outside hs (by decide) hfirst (outsideWork_of_arrays hs (.inl ha))
  have hx1u : u.ReadsAs .wave (1 * u.gN) (x 1) := by
    rw [hNu]
    refine readsAs_of_bytes rfl (fun a ha => byteAt_stft_wave hs (by decide) hfirst (inBuffer_of_covers ha ?_)) hx1
    rw [hlen1]
    exact wave_row_fits s (by decide)
  obtain ⟨t, hsecond, -, hframes1⟩ :=
    stftBody_of_row cmd hu (c := 1) (by decide) (hlen1.trans hNu.symm) hx1u (hwlen.trans hWu.symm) hwinu
  refine ⟨t, (stftAllBody_ok_iff _ _ _).2 ⟨u, hfirst, hsecond⟩, fun c f b hc hf hb => ?_,
    fun a h1 h2 h3 h4 h5 h6 => ?_⟩
  · obtain rfl | rfl : c = 0 ∨ c = 1 := by omega
    · obtain ⟨v, hval, hspec, -⟩ := hframes0 f b hf hb
      refine ⟨v, hval, Eq.trans ?_ hspec⟩
      obtain ⟨hlo, hhi⟩ := specIndex_range 0 hf hb
      refine complexAt_of_bytes rfl (fun a ha => ?_) hlo hhi
      exact byteAt_stft_spec_other hu (c' := 0) (by decide) (by decide) hsecond (by rwa [hBINSu, hNBu])
    · rw [hPu, hNBu, hBINSu] at hframes1
      simp only [forwardFrame_of_writesOnly fu.1] at hframes1
      obtain ⟨v, hval, hspec, -⟩ := hframes1 f b hf hb
      exact ⟨v, hval, hspec⟩
  · have hin : ∀ b : Buffer, ¬ s.InBuffer b a → ¬ u.InBuffer b a := fun b => mt (inBuffer_of_writesOnly fu.1 b a).1
    refine (byteAt_stft hu hsecond (hin _ h1) (hin _ h2) (hin _ h3) (hin _ h4) (hin _ h5) fun h => hin _ h6
      (inBuffer_of_covers h (spec_channel_fits u (by decide)))).trans ?_
    exact byteAt_stft hs hfirst h1 h2 h3 h4 h5 fun h => h6 (inBuffer_of_covers h (spec_channel_fits s (by decide)))

/-- Settles O32: the body's result, completed. -/
theorem stftAllComputesBothForwardPasses : Obligations.StftAllComputesBothForwardPasses := by
  unfold Obligations.StftAllComputesBothForwardPasses
  intro s x hv hwin hg harrays hx
  have hs : Latched s := ⟨hg, hv⟩
  obtain ⟨t, hbody, hframes, hbytes⟩ := stftAllBody_of_rows .stftAll hs hwin harrays hx
  obtain ⟨hexec, hcompleted⟩ := exec_completes (commandError_driver (i := .stftAll) (by simp) rfl hv hwin) hbody
    (bodyOf_writesOnly (i := .stftAll) (by simp) (by simp) hbody)
  refine ⟨_, hexec, hcompleted, fun c f b hc hf hb => ?_, hbytes⟩
  obtain ⟨v, hval, hspec⟩ := hframes c f b hc hf hb
  exact ⟨v, (forwardPass_getElem? (x c) s.windowArray hs hf b).trans hval, hspec⟩

/-! ### The inverse pass -/

/-- The terms of frame f of the inverse pass (R312). -/
def inverseTerms (s : State) (w n : List Word) (frames : List (List (Word × Word))) (f : Nat) : List Word :=
  frameTerms s (frames.getD f []) w ((n.drop (f * s.gH)).take s.gW)

/-- OUTACC after the frames below n have been added (R312, R362). -/
def accumulated (s : State) (w norm : List Word) (frames : List (List (Word × Word))) (n : Nat) : List Word :=
  (List.range n).foldl (fun acc f => overlapAdd binary32 acc (f * s.gH) (inverseTerms s w norm frames f))
    (List.replicate s.gL (numOfNat 0))

@[simp] theorem accumulated_length (s : State) (w norm : List Word) (frames : List (List (Word × Word))) (n : Nat) :
    (accumulated s w norm frames n).length = s.gL := by
  simp [accumulated]

theorem accumulated_succ (s : State) (w norm : List Word) (frames : List (List (Word × Word))) (n : Nat) :
    accumulated s w norm frames (n + 1) =
      overlapAdd binary32 (accumulated s w norm frames n) (n * s.gH) (inverseTerms s w norm frames n) := by
  simp [accumulated, List.range_succ]

theorem accumulated_of_writesOnly {s t : State} (h : WritesOnly s t) (w norm : List Word)
    (frames : List (List (Word × Word))) (n : Nat) : accumulated t w norm frames n = accumulated s w norm frames n := by
  obtain ⟨hframe, -⟩ := h
  rw [hframe]
  rfl

/-- Before frame n: WINDOW, NORM and the rows of CFRAMES from n on hold the operands, and OUTACC the frames below n. -/
def InverseDone (w norm : List Word) (frames : List (List (Word × Word))) (n : Nat) (s : State) : Prop :=
  s.ReadsAs .window 0 w ∧ s.ReadsAs .norm 0 norm ∧
    (∀ f, n ≤ f → f < s.gNB → s.ReadsComplexAs .cframes (f * s.gNBINS) (frames.getD f [])) ∧
    s.ReadsAs .outacc 0 (accumulated s w norm frames n)

/-- Adding a frame's terms to the accumulator's slice, where the slice is read and written in place. -/
theorem readsAs_overlapAdd {s t : State} {b : Buffer} (hb : b.elemSize = 4) {acc terms : List Word} {start : Nat}
    (hacc : s.ReadsAs b 0 acc)
    (hslice : t.ReadsAs b start (List.zipWith numAdd ((acc.drop start).take terms.length) terms))
    (hrest : ∀ a, b.Covers 0 acc.length a → ¬ b.Covers start terms.length a → t.byteAt a = s.byteAt a) :
    t.ReadsAs b 0 (overlapAdd binary32 acc start terms) := by
  intro k hk
  rw [overlapAdd_length] at hk
  by_cases hin : start ≤ k ∧ k < start + terms.length
  · have hread := hslice (k - start) (by simp; omega)
    rw [show start + (k - start) = 0 + k by omega] at hread
    rw [hread, overlapAdd_inside binary32 hin.1 (getElem?_eq_getD hk 0#32)
      (getElem?_eq_getD (show k - start < terms.length by omega) 0#32), List.getElem?_zipWith, List.getElem?_take,
      if_pos (by omega), List.getElem?_drop, Nat.add_sub_cancel' hin.1, getElem?_eq_getD hk 0#32,
      getElem?_eq_getD (show k - start < terms.length by omega) 0#32]
    rfl
  · rw [overlapAdd_outside binary32 (by omega), ← hacc k hk]
    refine realAt_congr fun j hj => hrest _ (covers_element (Nat.zero_le _) (by omega) (by omega)) fun hcov => ?_
    have hcell : b.Covers (0 + k) 1 (b.addr (0 + k) + j) := covers_element (Nat.le_refl _) (by omega) (by omega)
    exact covers_apart hcell hcov (by omega)

/-- One frame of the inverse loop (R312). -/
theorem inverse_step (cmd : Instr) {s : State} {w norm : List Word} {frames : List (List (Word × Word))} {f : Nat}
    (hs : Latched s) (hw : w.length = s.gW) (hnorm : norm.length = s.gL) (hf : f < s.gNB)
    (hframes : ∀ g < s.gNB, (frames.getD g []).length = s.gNBINS) (h : InverseDone w norm frames f s) :
    ∃ v, frameInvBody cmd f s = .ok v ∧ InverseDone w norm frames (f + 1) v := by
  obtain ⟨hwin, hnrm, hrows, hacc⟩ := h
  have hframe := hframes f hf
  have hfit := frame_in_range hs hf
  have hrowfit := cframes_row_fits hf
  have hwfit : 0 + w.length ≤ Buffer.window.len s := by simp only [Buffer.len]; omega
  have hnfit : 0 + norm.length ≤ Buffer.norm.len s := by simp only [Buffer.len]; omega
  have haccfit : f * s.gH + s.gW ≤ Buffer.outacc.len s := hfit
  have hslice : ((norm.drop (f * s.gH)).take s.gW).length = s.gW := by
    rw [List.length_take, List.length_drop]; omega
  have haslice : (((accumulated s w norm frames f).drop (f * s.gH)).take s.gW).length = s.gW := by
    rw [List.length_take, List.length_drop, accumulated_length]; omega
  have hra := readsAs_slice hacc (f * s.gH) s.gW
  have hrn := readsAs_slice hnrm (f * s.gH) s.gW
  rw [Nat.zero_add] at hra hrn
  have hbody := frameInvBody_of_operands cmd hframe haslice hw hslice (hrows f (Nat.le_refl f) hf) hra hwin hrn
  obtain ⟨-, -, hadded⟩ := writeInverseFrame_reads hs hf hframe haslice hw hslice
  have hwo := frameInvBody_writesOnly hbody
  obtain ⟨-, -, -, -, -, hNB, hBINS⟩ := writesOnly_geometry hwo
  have hterms : (inverseTerms s w norm frames f).length = s.gW := frameTerms_length hw hslice
  refine ⟨_, hbody, ?_, ?_, fun g hg hgNB => ?_, ?_⟩
  · exact readsAs_of_bytes rfl (fun a ha => byteAt_frameInv hbody (covers_ne hs (by decide) hwfit hrowfit ha)
      (covers_ne hs (by decide) hwfit (windowed_fits s) ha) (covers_ne hs (by decide) hwfit haccfit ha)) hwin
  · exact readsAs_of_bytes rfl (fun a ha => byteAt_frameInv hbody (covers_ne hs (by decide) hnfit hrowfit ha)
      (covers_ne hs (by decide) hnfit (windowed_fits s) ha) (covers_ne hs (by decide) hnfit haccfit ha)) hnrm
  · rw [hNB] at hgNB
    rw [hBINS]
    refine readsComplexAs_of_bytes rfl (fun a ha => ?_) (hrows g (by omega) hgNB)
    rw [hframes g hgNB] at ha
    have hgfit := cframes_row_fits hgNB
    exact byteAt_frameInv hbody (cframes_rows_apart (by omega) ha)
      (covers_ne hs (by decide) hgfit (windowed_fits s) ha) (covers_ne hs (by decide) hgfit haccfit ha)
  · rw [accumulated_of_writesOnly hwo, accumulated_succ]
    refine readsAs_overlapAdd rfl hacc (by rw [hterms]; exact hadded)
      fun a ha hout => ?_
    rw [accumulated_length] at ha
    rw [hterms] at hout
    have hain : 0 + s.gL ≤ Buffer.outacc.len s := Nat.le_of_eq (Nat.zero_add _)
    exact byteAt_frameInv hbody (covers_ne hs (by decide) hain hrowfit ha)
      (covers_ne hs (by decide) hain (windowed_fits s) ha) hout

/-- The inverse loop (R362). -/
theorem inverse_loop (cmd : Instr) {s : State} {w norm : List Word} {frames : List (List (Word × Word))} (hs : Latched s)
    (hw : w.length = s.gW) (hnorm : norm.length = s.gL)
    (hframes : ∀ g < s.gNB, (frames.getD g []).length = s.gNBINS) (h : InverseDone w norm frames 0 s) :
    ∃ t, forFrames (frameInvBody cmd) 0 s.gNB s = .ok t ∧ Fills s t ∧ InverseDone w norm frames s.gNB t := by
  refine forFrames_rule (fun n u => Fills s u ∧ InverseDone w norm frames n u) (fun f u hf hu => ?_) ⟨Fills.refl s, h⟩
  obtain ⟨hfills, hdone⟩ := hu
  obtain ⟨hW, -, -, -, hL, hNB, hBINS⟩ := writesOnly_geometry hfills.1
  obtain ⟨v, hv, hdone⟩ := inverse_step cmd (latched_of_fills hfills hs) (hw.trans hW.symm) (hnorm.trans hL.symm)
    (by rwa [hNB]) (by rwa [hNB, hBINS]) hdone
  exact ⟨v, hv, hfills.trans (frameInvBody_fills hv), hdone⟩

/-- The inverse pass of the machine's geometry (R362). -/
def inverseRow (s : State) (w norm : List Word) (frames : List (List (Word × Word))) : List Word :=
  inversePass binary32 s.gW s.gH s.gN s.invScale s.actEps w norm frames

theorem inverseRow_eq {s : State} (hs : Latched s) (w norm : List Word) {frames : List (List (Word × Word))}
    (hlen : frames.length = s.gNB) :
    inverseRow s w norm frames = ((accumulated s w norm frames s.gNB).drop s.gP).take s.gN := by
  obtain ⟨-, -, -, -, hP, -, -, hL, -⟩ := geometry_of_latched hs
  rw [inverseRow, inversePass, accumulateFrames, hlen, ← hP, ← hL]
  rfl

theorem inverseRow_length {s : State} (hs : Latched s) (w norm : List Word) {frames : List (List (Word × Word))}
    (hlen : frames.length = s.gNB) : (inverseRow s w norm frames).length = s.gN := by
  obtain ⟨-, -, -, -, -, -, hL, -⟩ := geometry_of_latched hs
  rw [inverseRow_eq hs w norm hlen, List.length_take, List.length_drop, accumulated_length]
  omega

theorem inverseRow_of_writesOnly {s t : State} (h : WritesOnly s t) (w norm : List Word)
    (frames : List (List (Word × Word))) : inverseRow t w norm frames = inverseRow s w norm frames := by
  obtain ⟨hframe, -⟩ := h
  rw [hframe]
  rfl

/-- SPEC_LOAD and ACC_CLEAR prepare the inverse loop (R310, R311). -/
theorem load_and_clear (cmd : Instr) {c : Nat} {s : State} {w norm : List Word} {frames : List (List (Word × Word))}
    (hs : Latched s) (hw : w.length = s.gW) (hnorm : norm.length = s.gL) (hwin : s.ReadsAs .window 0 w)
    (hnrm : s.ReadsAs .norm 0 norm) (hspec : SpecHolds s c frames) :
    ∃ u, specLoadBody cmd c s = .ok u ∧ Fills s (accClearBody u) ∧ InverseDone w norm frames 0 (accClearBody u) := by
  obtain ⟨hlen, hrows, hread⟩ := hspec
  have hrow : ∀ f < s.gNB, (frames.getD f []).length = s.gNBINS := fun f hf => hrows _ (by
    rw [List.getD_eq_getElem?_getD, List.getElem?_eq_getElem (by omega)]
    exact List.getElem_mem _)
  have hz : ∀ f b, f < s.gNB → b < s.gNBINS → s.complexAt .spec ((c * s.gNBINS + b) * s.gNB + f) =
      some ((frames.getD f []).getD b (0#32, 0#32)) := by
    intro f b hf hb
    rw [hread f b hf hb, getElem?_eq_getD (by omega) []]
    exact getElem?_eq_getD (by rw [hrow f hf]; exact hb) _
  have hload := specLoadBody_of_spec cmd hz
  have hcells := fun f b => cframes_written (s := s) (fun f b => (frames.getD f []).getD b (0#32, 0#32)) (f := f) (b := b)
  generalize writeComplexes .cframes 0 _ s = u at hload hcells
  have fu := specLoadBody_fills hload
  have hu := latched_of_fills fu hs
  have fv := fu.trans (accClearBody_fills u)
  obtain ⟨hWu, -, -, -, hLu, -, -⟩ := writesOnly_geometry fu.1
  obtain ⟨-, -, -, -, hLv, hNBv, hBINSv⟩ := writesOnly_geometry fv.1
  have hwfit : 0 + w.length ≤ Buffer.window.len s := by simp only [Buffer.len]; omega
  have hnfit : 0 + norm.length ≤ Buffer.norm.len s := by simp only [Buffer.len]; omega
  have hcfit : 0 + s.gNB * s.gNBINS ≤ Buffer.cframes.len s := Nat.le_of_eq (Nat.zero_add _)
  have hafit : 0 + u.gL ≤ Buffer.outacc.len s := Nat.le_of_eq (by rw [hLu, Nat.zero_add]; rfl)
  have hframe : ∀ {b : Buffer}, b ≠ .cframes → b ≠ .outacc → ∀ {start n a : Nat}, start + n ≤ b.len s →
      b.Covers start n a → (accClearBody u).byteAt a = s.byteAt a := fun h1 h2 _ _ _ hfit ha =>
    (byteAt_accClear u (covers_ne hs h2 hfit hafit ha)).trans (byteAt_specLoad hload (covers_ne hs h1 hfit hcfit ha))
  refine ⟨u, hload, fv, readsAs_of_bytes rfl (fun a => hframe (by decide) (by decide) hwfit) hwin,
    readsAs_of_bytes rfl (fun a => hframe (by decide) (by decide) hnfit) hnrm, fun f _ hf => ?_, ?_⟩
  · rw [hNBv] at hf
    rw [hBINSv]
    refine readsComplexAs_of_bytes (s := u) rfl (fun a ha => byteAt_accClear u ?_) fun b hb => ?_
    · rw [hrow f hf] at ha
      exact covers_ne hs (by decide) (cframes_row_fits hf) hafit ha
    · rw [hcells f b hf (by rwa [hrow f hf] at hb), getElem?_eq_getD hb (0#32, 0#32)]
  · have := accClear_reads u
    rwa [hLu, ← hLv] at this

/-- The body of ISTFT on a channel of SPEC that holds values, with the arrays in place (R362). -/
theorem istftBody_of_spec (cmd : Instr) {c : Nat} {s : State} {w norm : List Word} {frames : List (List (Word × Word))}
    (hs : Latched s) (hw : w.length = s.gW) (hnorm : norm.length = s.gL) (hwin : s.ReadsAs .window 0 w)
    (hnrm : s.ReadsAs .norm 0 norm) (hspec : SpecHolds s c frames) :
    ∃ t, istftBody cmd c s = .ok t ∧ t.ReadsAs .wave (c * s.gN) (inverseRow s w norm frames) := by
  obtain ⟨hlen, hrows, -⟩ := id hspec
  obtain ⟨u, hload, fu, hdone⟩ := load_and_clear cmd hs hw hnorm hwin hnrm hspec
  obtain ⟨hWu, -, -, -, hLu, hNBu, hBINSu⟩ := writesOnly_geometry fu.1
  have hframes : ∀ g < s.gNB, (frames.getD g []).length = s.gNBINS := fun g hg => hrows _ (by
    rw [List.getD_eq_getElem?_getD, List.getElem?_eq_getElem (by omega)]
    exact List.getElem_mem _)
  obtain ⟨v, hloop, hfills, -, -, -, hacc⟩ := inverse_loop cmd (latched_of_fills fu hs) (hw.trans hWu.symm)
    (hnorm.trans hLu.symm) (by rwa [hNBu, hBINSu]) hdone
  have fv := fu.trans hfills
  have hv := latched_of_fills fv hs
  obtain ⟨-, -, hNv, -, -, hNBv, -⟩ := writesOnly_geometry fv.1
  have hcentre := readsAs_slice hacc v.gP v.gN
  have hlenv : frames.length = v.gNB := hlen.trans hNBv.symm
  rw [Nat.zero_add, hNBu, ← hNBv,
    ← inverseRow_eq hv w norm hlenv] at hcentre
  have hstore := rowStoreBody_of_centre cmd (c := c) (inverseRow_length hv w norm hlenv) hcentre
  rw [hNBu] at hloop
  refine ⟨_, (istftBody_ok_iff _ _ _ _).2 ⟨u, hload, v, hloop, hstore⟩, ?_⟩
  rw [← hNv, ← inverseRow_of_writesOnly fv.1]
  exact realAt_writeReals _ rfl _ _ _

/-- Settles O33: the body's result, completed, and the bytes it leaves alone. -/
theorem istftComputesTheInversePass : Obligations.IstftComputesTheInversePass := by
  unfold Obligations.IstftComputesTheInversePass
  intro c s frames _ hv hwin hg harrays hspec
  have hs : Latched s := ⟨hg, hv⟩
  obtain ⟨hwindow, hnorm⟩ := harrays hwin
  obtain ⟨t, hbody, hwave⟩ := istftBody_of_spec (.istft c) hs (state_windowArray_length s) (state_normArray_length s)
    hwindow hnorm hspec
  obtain ⟨hexec, hcompleted⟩ := exec_completes (commandError_driver (i := .istft c) (by simp) rfl hv hwin) hbody
    (istftBody_writesOnly hbody)
  exact ⟨_, hexec, hcompleted, inverseRow_length hs _ _ hspec.1, hwave, fun a h1 h2 h3 h4 =>
    byteAt_istft hs hbody h1 h2 h3 h4⟩

/-- ISTFT leaves SPEC and the other row of WAVE as they were (R362). -/
theorem byteAt_istft_spec {cmd : Instr} {c : Nat} {s t : State} (hs : Latched s) (hc : c < 2)
    (h : istftBody cmd c s = .ok t) {a : Nat} (ha : s.InBuffer .spec a) : t.byteAt a = s.byteAt a :=
  byteAt_istft hs h (fun h => inBuffer_disjoint hs (by decide) ha h) (fun h => inBuffer_disjoint hs (by decide) ha h)
    (fun h => inBuffer_disjoint hs (by decide) ha h)
    (fun h => inBuffer_disjoint hs (by decide) ha (inBuffer_of_covers h (wave_row_fits s hc)))

theorem byteAt_istft_wave_other {cmd : Instr} {c c' : Nat} {s t : State} (hs : Latched s) (hc' : c' < 2) (hne : c' ≠ c)
    (h : istftBody cmd c s = .ok t) {a : Nat} (ha : Buffer.wave.Covers (c' * s.gN) s.gN a) : t.byteAt a = s.byteAt a := by
  have hin := inBuffer_of_covers ha (wave_row_fits s hc')
  exact byteAt_istft hs h (fun h => inBuffer_disjoint hs (by decide) hin h)
    (fun h => inBuffer_disjoint hs (by decide) hin h) (fun h => inBuffer_disjoint hs (by decide) hin h)
    (channels_apart hne ha)

/-- A channel of SPEC whose bytes are as before holds the same frames. -/
theorem specHolds_of_bytes {s t : State} (hNB : t.gNB = s.gNB) (hBINS : t.gNBINS = s.gNBINS) {c : Nat} (hc : c < 2)
    (hbytes : ∀ a, s.InBuffer .spec a → t.byteAt a = s.byteAt a) {frames : List (List (Word × Word))}
    (h : SpecHolds s c frames) : SpecHolds t c frames := by
  obtain ⟨hlen, hrows, hread⟩ := h
  refine ⟨hlen.trans hNB.symm, fun fr hfr => (hrows fr hfr).trans hBINS.symm, fun f b hf hb => ?_⟩
  rw [hNB] at hf ⊢
  rw [hBINS] at hb ⊢
  obtain ⟨-, hhi⟩ := specIndex_range c hf hb
  rw [← hread f b hf hb]
  have hfit := spec_channel_fits s hc
  exact complexAt_of_bytes rfl (start := 0) (n := Buffer.spec.len s) hbytes (by omega) (by omega)

/-- The body of ISTFT_ALL on two channels of SPEC that hold values, with the arrays in place (R363). -/
theorem istftAllBody_of_specs (cmd : Instr) {s : State} {frames : Nat → List (List (Word × Word))} (hs : Latched s)
    (hwin : s.winValid = true) (harrays : s.ArraysValid) (hspec : ∀ c, c < 2 → SpecHolds s c (frames c)) :
    ∃ t, istftAllBody cmd s = .ok t ∧
      (∀ c, c < 2 → t.ReadsAs .wave (c * s.gN) (inverseRow s s.windowArray s.normArray (frames c))) ∧
      ∀ a, ¬ s.InBuffer .cframes a → ¬ s.InBuffer .windowed a → ¬ s.InBuffer .outacc a → ¬ s.InBuffer .wave a →
        t.byteAt a = s.byteAt a := by
  obtain ⟨hwindow, hnorm⟩ := harrays hwin
  have hwlen := state_windowArray_length s
  have hnlen := state_normArray_length s
  obtain ⟨u, hfirst, hwave0⟩ := istftBody_of_spec cmd hs hwlen hnlen hwindow hnorm (hspec 0 (by decide))
  have fu := istftBody_fills hfirst
  have hu := latched_of_fills fu hs
  obtain ⟨hWu, -, hNu, -, hLu, hNBu, hBINSu⟩ := writesOnly_geometry fu.1
  have harray : ∀ a, s.InBuffer .window a ∨ s.InBuffer .norm a → u.byteAt a = s.byteAt a := fun a ha =>
    byteAt_istft_of_outside hs (by decide) hfirst (outsideWork_of_arrays hs ha)
  have hwindowu : u.ReadsAs .window 0 s.windowArray :=
    readsAs_of_bytes rfl (fun a ha => harray a (.inl (by rwa [hwlen] at ha))) hwindow
  have hnormu : u.ReadsAs .norm 0 s.normArray :=
    readsAs_of_bytes rfl (fun a ha => harray a (.inr (by rwa [hnlen] at ha))) hnorm
  obtain ⟨t, hsecond, hwave1⟩ := istftBody_of_spec cmd (c := 1) hu (hwlen.trans hWu.symm) (hnlen.trans hLu.symm)
    hwindowu hnormu (specHolds_of_bytes hNBu hBINSu (by decide)
      (fun a ha => byteAt_istft_spec hs (by decide) hfirst ha) (hspec 1 (by decide)))
  refine ⟨t, (istftAllBody_ok_iff _ _ _).2 ⟨u, hfirst, hsecond⟩, fun c hc => ?_, fun a h1 h2 h3 h4 => ?_⟩
  · obtain rfl | rfl : c = 0 ∨ c = 1 := by omega
    · refine readsAs_of_bytes rfl (fun a ha => ?_) hwave0
      rw [inverseRow_length hs _ _ (hspec 0 hc).1, ← hNu] at ha
      exact byteAt_istft_wave_other hu (c' := 0) (by decide) (by decide) hsecond ha
    · rwa [hNu, inverseRow_of_writesOnly fu.1] at hwave1
  · have hin : ∀ b : Buffer, ¬ s.InBuffer b a → ¬ u.InBuffer b a := fun b => mt (inBuffer_of_writesOnly fu.1 b a).1
    refine (byteAt_istft hu hsecond (hin _ h1) (hin _ h2) (hin _ h3) fun h => hin _ h4
      (inBuffer_of_covers h (wave_row_fits u (by decide)))).trans ?_
    exact byteAt_istft hs hfirst h1 h2 h3 fun h => h4 (inBuffer_of_covers h (wave_row_fits s (by decide)))

/-- Settles O34: the body's result, completed. -/
theorem istftAllComputesBothInversePasses : Obligations.IstftAllComputesBothInversePasses := by
  unfold Obligations.IstftAllComputesBothInversePasses
  intro s frames hv hwin hg harrays hspec
  have hs : Latched s := ⟨hg, hv⟩
  obtain ⟨t, hbody, hwave, hbytes⟩ := istftAllBody_of_specs .istftAll hs hwin harrays hspec
  obtain ⟨hexec, hcompleted⟩ := exec_completes (commandError_driver (i := .istftAll) (by simp) rfl hv hwin) hbody
    (bodyOf_writesOnly (i := .istftAll) (by simp) (by simp) hbody)
  exact ⟨_, hexec, hcompleted, fun c hc => ⟨hwave c hc, inverseRow_length hs _ _ (hspec c hc).1⟩, hbytes⟩

/-! ### Channel independence -/

/-- The arrays are functions of the geometry and the build (R224, R225). -/
theorem arrays_of_sameGeometry {s t : State} (h : SameGeometry s t) :
    t.windowArray = s.windowArray ∧ t.normArray = s.normArray := by
  obtain ⟨hW, hH, -, -, -, hL, hNB, -, -, -, hb⟩ := h
  have hwarr : t.windowArray = s.windowArray := by simp only [State.windowArray, State.gW, hW, hb]
  exact ⟨hwarr, by simp only [State.normArray, hwarr, State.gL, State.gH, State.gNB, hL, hH, hNB]⟩

/-- Settles O36: both results are functions of the channel, the geometry and the arrays (R364). -/
theorem channelsAreIndependent : Obligations.ChannelsAreIndependent := by
  unfold Obligations.ChannelsAreIndependent
  intro c s s' t t' hc hg hg' harrays harrays' hsame hv hv' hwin hwin'
  obtain ⟨hwarr, hnarr⟩ := arrays_of_sameGeometry hsame
  obtain ⟨hW, hH, hN, heps, -, -, hNB, hBINS, hF, hI, -⟩ := hsame
  have gW : s'.gW = s.gW := congrArg BitVec.toNat hW
  have gH : s'.gH = s.gH := congrArg BitVec.toNat hH
  have gN : s'.gN = s.gN := congrArg BitVec.toNat hN
  have gNB : s'.gNB = s.gNB := congrArg BitVec.toNat hNB
  have gNBINS : s'.gNBINS = s.gNBINS := congrArg BitVec.toNat hBINS
  refine ⟨fun x hlen hx hx' hexec hexec' f b hf hb => ?_, fun frames hspec hspec' hexec hexec' n hn => ?_⟩
  · obtain ⟨u, hu, -, hframes, -⟩ := stftComputesTheForwardPass c s x hc hv hwin hg harrays hlen hx
    obtain ⟨u', hu', -, hframes', -⟩ := stftComputesTheForwardPass c s' x hc hv' hwin' hg' harrays' (hlen.trans gN.symm)
      (by rwa [gN])
    obtain rfl : u = t := Host.Outcome.next.inj (hu.symm.trans hexec)
    obtain rfl : u' = t' := Host.Outcome.next.inj (hu'.symm.trans hexec')
    simp only [gW, gH, gNB, gNBINS, hF, hwarr] at hframes'
    obtain ⟨v, hval, hread, -⟩ := hframes f b hf hb
    obtain ⟨v', hval', hread', -⟩ := hframes' f b hf hb
    rw [hread, hread', ← hval, ← hval']
  · obtain ⟨u, hu, -, hlen, hwave, -⟩ := istftComputesTheInversePass c s frames hc hv hwin hg harrays hspec
    obtain ⟨u', hu', -, hlen', hwave', -⟩ := istftComputesTheInversePass c s' frames hc hv' hwin' hg' harrays' hspec'
    obtain rfl : u = t := Host.Outcome.next.inj (hu.symm.trans hexec)
    obtain rfl : u' = t' := Host.Outcome.next.inj (hu'.symm.trans hexec')
    simp only [gW, gH, gN, heps, hI, hwarr, hnarr] at hlen' hwave'
    rw [hwave n (by omega), hwave' n (by omega)]

end Sys2Proof.Proofs.Drivers
end

section
/-! NUM as IEEE 754 binary32 (00_scope.md R9, R10, R17): magnitudes as a strictly monotone scale of values, the nearest one
with ties to even, the two roundings of Machine/Float.lean against it, and the operations on top. -/

namespace Sys2Proof.Proofs.Rounding

open Sys2Proof.Machine Sys2Proof.Proofs.Elements Sys2Proof.Proofs.Faults Sys2Proof.Proofs.Arrays

/-! ### The scale of magnitudes -/

/-- The value of exponent e and significand m, with the carry into the next exponent at m = 2^24. -/
theorem magValue_pack {e m : Nat} (hm : m ≤ 2 ^ 24) (he : e = 0 ∨ 2 ^ 23 ≤ m) : magValue (e * 2 ^ 23 + m) = m * 2 ^ e := by
  unfold magValue
  split
  · obtain rfl : e = 0 := by omega
    simp
  · by_cases hcarry : m = 2 ^ 24
    · rw [show (e * 2 ^ 23 + m) % 2 ^ 23 = 0 by omega, show (e * 2 ^ 23 + m) / 2 ^ 23 - 1 = e + 1 by omega, hcarry, pow_succ]
      ring
    · rw [show 2 ^ 23 + (e * 2 ^ 23 + m) % 2 ^ 23 = m by omega, show (e * 2 ^ 23 + m) / 2 ^ 23 - 1 = e by omega]

/-- Every magnitude has an exponent and a significand. -/
theorem exists_pack (p : Nat) : ∃ e m, p = e * 2 ^ 23 + m ∧ m < 2 ^ 24 ∧ (e = 0 ∨ 2 ^ 23 ≤ m) :=
  ⟨p / 2 ^ 23 - 1, p - (p / 2 ^ 23 - 1) * 2 ^ 23, by omega, by omega, by omega⟩

theorem magValue_strictMono : StrictMono magValue := by
  refine strictMono_nat_of_lt_succ fun p => ?_
  obtain ⟨e, m, rfl, hm, he⟩ := exists_pack p
  rw [Nat.add_assoc, magValue_pack (by omega) he, magValue_pack (by omega) (by omega)]
  exact Nat.mul_lt_mul_of_pos_right (Nat.lt_succ_self m) (by positivity)

@[simp] theorem magValue_zero : magValue 0 = 0 := rfl

@[simp] theorem magValue_one : magValue 1 = 1 := rfl

theorem magValue_eq_zero_iff {p : Nat} : magValue p = 0 ↔ p = 0 :=
  ⟨fun h => magValue_strictMono.injective (h.trans magValue_zero.symm), fun h => by rw [h, magValue_zero]⟩

/-! ### The nearest magnitude -/

/-- The magnitude q is nearest to r units of 2^-149, and even when another is as near: r lies between the midpoints of q and
the magnitudes on either side of it. -/
def MagNearest (q : Nat) (r : ℝ) : Prop :=
  ∀ p : Nat, (q < p → 2 * r ≤ magValue q + magValue p ∧ (2 * r = magValue q + magValue p → q % 2 = 0)) ∧
    (p < q → (magValue p + magValue q : ℝ) ≤ 2 * r ∧ ((magValue p + magValue q : ℝ) = 2 * r → q % 2 = 0))

theorem cast_magValue_lt {p q : Nat} (h : p < q) : (magValue p : ℝ) < magValue q := by
  exact_mod_cast magValue_strictMono h

/-- Of two points the nearer to r is the one on its side of the midpoint. -/
theorem abs_sub_le_abs_sub_iff {a b r : ℝ} (h : a < b) : |a - r| ≤ |b - r| ↔ 2 * r ≤ a + b := by
  rw [← sq_le_sq]
  constructor <;> intro h' <;> nlinarith

theorem abs_sub_le_abs_sub_iff' {a b r : ℝ} (h : a < b) : |b - r| ≤ |a - r| ↔ a + b ≤ 2 * r := by
  rw [← sq_le_sq]
  constructor <;> intro h' <;> nlinarith

theorem MagNearest.abs_le {q : Nat} {r : ℝ} (h : MagNearest q r) {p : Nat} (hp : p ≠ q) :
    |(magValue q : ℝ) - r| ≤ |(magValue p : ℝ) - r| ∧ (|(magValue q : ℝ) - r| = |(magValue p : ℝ) - r| → q % 2 = 0) := by
  obtain ⟨hup, hdown⟩ := h p
  rcases Nat.lt_or_gt_of_ne hp with hlt | hlt
  · obtain ⟨hle, heven⟩ := hdown hlt
    have hv := cast_magValue_lt hlt
    exact ⟨(abs_sub_le_abs_sub_iff' hv).2 hle, fun heq => heven (hle.antisymm ((abs_sub_le_abs_sub_iff hv).1 heq.ge))⟩
  · obtain ⟨hle, heven⟩ := hup hlt
    have hv := cast_magValue_lt hlt
    exact ⟨(abs_sub_le_abs_sub_iff hv).2 hle, fun heq => heven (hle.antisymm ((abs_sub_le_abs_sub_iff' hv).1 heq.ge))⟩

/-- What is nearest to two reals is nearest to what lies between them. -/
theorem MagNearest.between {q : Nat} {a b r : ℝ} (ha : MagNearest q a) (hb : MagNearest q b) (har : a ≤ r) (hrb : r ≤ b) :
    MagNearest q r := by
  refine fun p => ⟨fun hp => ?_, fun hp => ?_⟩
  · obtain ⟨hle, heven⟩ := (hb p).1 hp
    exact ⟨by linarith, fun heq => heven (by linarith)⟩
  · obtain ⟨hle, heven⟩ := (ha p).2 hp
    exact ⟨by linarith, fun heq => heven (by linarith)⟩

/-- The rounding of a real between the magnitudes p and p + 1, from its comparison with their midpoint. -/
def roundFrom (p : Nat) (o : Ordering) : Nat :=
  match o with
  | .lt => p
  | .gt => p + 1
  | .eq => p + p % 2

theorem magNearest_roundFrom {p : Nat} {r : ℝ} {o : Ordering} (hlo : magValue p ≤ r) (hhi : r < magValue (p + 1))
    (ho : o.Compares (2 * r) (magValue p + magValue (p + 1))) : MagNearest (roundFrom p o) r := by
  have hup : ∀ q, p < q → (magValue (p + 1) : ℝ) ≤ magValue q := fun q hq => by
    exact_mod_cast magValue_strictMono.monotone hq
  have hdown : ∀ q, q ≤ p → (magValue q : ℝ) ≤ magValue p := fun q hq => by
    exact_mod_cast magValue_strictMono.monotone hq
  have lower : 2 * r ≤ magValue p + magValue (p + 1) →
      (2 * r = magValue p + magValue (p + 1) → p % 2 = 0) → MagNearest p r := by
    refine fun hle heven q => ⟨fun hq => ?_, fun hq => ?_⟩
    · have := hup q hq
      exact ⟨by linarith, fun heq => heven (by linarith)⟩
    · have := cast_magValue_lt hq
      exact ⟨by linarith, fun heq => by linarith⟩
  have upper : (magValue p + magValue (p + 1) : ℝ) ≤ 2 * r →
      ((magValue p + magValue (p + 1) : ℝ) = 2 * r → (p + 1) % 2 = 0) → MagNearest (p + 1) r := by
    refine fun hle heven q => ⟨fun hq => ?_, fun hq => ?_⟩
    · have := cast_magValue_lt hq
      exact ⟨by linarith, fun heq => by linarith⟩
    · have := hdown q (by omega)
      exact ⟨by linarith, fun heq => heven (by linarith)⟩
  cases o with
  | lt => exact lower (le_of_lt ho) fun heq => absurd heq (ne_of_lt ho)
  | gt => exact upper (le_of_lt ho) fun heq => absurd heq (ne_of_lt ho)
  | eq =>
    have ho : 2 * r = magValue p + magValue (p + 1) := ho
    rcases Nat.mod_two_eq_zero_or_one p with hp | hp
    · rw [roundFrom, hp]
      exact lower (le_of_eq ho) fun _ => hp
    · rw [roundFrom, hp]
      exact upper (ge_of_eq ho) fun _ => by omega

/-! ### Rounding a quotient -/

/-- The exponent `roundMag` takes for the integer part q of its operand leaves a significand of 24 bits. -/
theorem exponent_spec (q : Nat) (e : Nat) (he : e = if q < 2 ^ 24 then 0 else Nat.log2 q - 23) :
    q / 2 ^ e < 2 ^ 24 ∧ (e = 0 ∨ 2 ^ 23 ≤ q / 2 ^ e) := by
  split at he
  · subst he
    simpa
  · rename_i hq
    have hq0 : q ≠ 0 := by omega
    have hlo : 2 ^ Nat.log2 q ≤ q := Nat.log2_self_le hq0
    have hhi : q < 2 ^ (Nat.log2 q + 1) := Nat.lt_log2_self
    have hlog : 24 ≤ Nat.log2 q := (Nat.le_log2 hq0).2 (by omega)
    rw [show Nat.log2 q = 23 + e by omega] at hlo hhi
    refine ⟨Nat.div_lt_of_lt_mul ?_, .inr ((Nat.le_div_iff_mul_le (by positivity)).2 ?_)⟩
    · rwa [← pow_add, show e + 24 = 23 + e + 1 by omega]
    · rwa [← pow_add]

/-- `roundMag` with its exponent named. -/
theorem roundMag_eq {num den e : Nat} (he : e = if num / den < 2 ^ 24 then 0 else Nat.log2 (num / den) - 23) :
    roundMag num den = min (e * 2 ^ 23 +
      (if 2 * (num % (den * 2 ^ e)) < den * 2 ^ e then num / (den * 2 ^ e)
       else if den * 2 ^ e < 2 * (num % (den * 2 ^ e)) then num / (den * 2 ^ e) + 1
       else num / (den * 2 ^ e) + num / (den * 2 ^ e) % 2)) infMag := by
  unfold roundMag
  extract_lets q e' d m r m'
  have h : e' = e := he.symm
  subst h
  rfl

/-- `roundMag` finds the magnitude below num/den and decides by the midpoint above it, up to infinity. -/
theorem roundMag_spec (num : Nat) {den : Nat} (hden : 0 < den) :
    ∃ p, magValue p * den ≤ num ∧ num < magValue (p + 1) * den ∧
      roundMag num den = min (roundFrom p (compare (2 * num) ((magValue p + magValue (p + 1)) * den))) infMag := by
  obtain ⟨e, he⟩ : ∃ e, e = if num / den < 2 ^ 24 then 0 else Nat.log2 (num / den) - 23 := ⟨_, rfl⟩
  obtain ⟨hm, hsig⟩ := exponent_spec (num / den) e he
  rw [Nat.div_div_eq_div_mul] at hm hsig
  have hd : 0 < den * 2 ^ e := by positivity
  have hdiv := Nat.div_add_mod num (den * 2 ^ e)
  have hmod := Nat.mod_lt num hd
  rw [roundMag_eq he]
  have hv : magValue (e * 2 ^ 23 + num / (den * 2 ^ e)) = num / (den * 2 ^ e) * 2 ^ e := magValue_pack (by omega) hsig
  have hv' : magValue (e * 2 ^ 23 + num / (den * 2 ^ e) + 1) = (num / (den * 2 ^ e) + 1) * 2 ^ e := by
    rw [Nat.add_assoc]
    exact magValue_pack (by omega) (by omega)
  generalize num / (den * 2 ^ e) = m at *
  generalize num % (den * 2 ^ e) = r at *
  have hfloor : magValue (e * 2 ^ 23 + m) * den + r = num := by rw [hv, ← hdiv]; ring
  have hceil : magValue (e * 2 ^ 23 + m + 1) * den = magValue (e * 2 ^ 23 + m) * den + den * 2 ^ e := by rw [hv, hv']; ring
  refine ⟨e * 2 ^ 23 + m, by omega, by omega, ?_⟩
  rw [Nat.add_mul]
  congr 1
  split
  · rw [compare_lt_iff_lt.2 (by omega)]
    rfl
  · split
    · rw [compare_gt_iff_gt.2 (by omega), roundFrom, Nat.add_assoc]
    · rw [compare_eq_iff_eq.2 (by omega), roundFrom]
      omega

/-- A comparison of naturals is that of their quotients by den. -/
theorem compares_div {o : Ordering} {a b den : Nat} (hden : 0 < den) (h : o.Compares a b) :
    o.Compares (a / den : ℝ) (b / den : ℝ) := by
  have hmono : StrictMono fun n : Nat => (n / den : ℝ) := fun m n h =>
    div_lt_div_of_pos_right (by exact_mod_cast h) (by exact_mod_cast hden)
  exact hmono.compares.2 h

/-- `roundMag`, where it is finite, is the magnitude nearest to num/den. -/
theorem magNearest_roundMag {num den : Nat} (hden : 0 < den) (hfin : roundMag num den < infMag) :
    MagNearest (roundMag num den) (num / den) := by
  obtain ⟨p, hlo, hhi, hround⟩ := roundMag_spec num hden
  have hd : (0 : ℝ) < den := by exact_mod_cast hden
  have hcmp : (compare (2 * num) ((magValue p + magValue (p + 1)) * den)).Compares (2 * num)
    ((magValue p + magValue (p + 1)) * den) := (compare_iff _ _).1 rfl
  rw [hround] at hfin ⊢
  rw [Nat.min_eq_left (by omega)]
  refine magNearest_roundFrom ?_ ?_ ?_
  · rw [le_div_iff₀ hd]
    exact_mod_cast hlo
  · rw [div_lt_iff₀ hd]
    exact_mod_cast hhi
  · have := compares_div hden hcmp
    push_cast at this
    rwa [mul_div_assoc, mul_div_cancel_right₀ _ hd.ne'] at this

/-- The rounding from p is p or p + 1. -/
theorem roundFrom_bounds (p : Nat) (o : Ordering) : p ≤ roundFrom p o ∧ roundFrom p o ≤ p + 1 := by
  unfold roundFrom
  split <;> omega

/-- `roundMag` is infinity from the midpoint above the largest finite magnitude on. -/
theorem roundMag_eq_infMag_iff (num : Nat) {den : Nat} (hden : 0 < den) :
    roundMag num den = infMag ↔ (2 ^ 25 - 1) * 2 ^ 252 * den ≤ num := by
  obtain ⟨p, hlo, hhi, hround⟩ := roundMag_spec num hden
  have hcmp : (compare (2 * num) ((magValue p + magValue (p + 1)) * den)).Compares (2 * num)
    ((magValue p + magValue (p + 1)) * den) := (compare_iff _ _).1 rfl
  obtain ⟨hfrom, hfrom'⟩ := roundFrom_bounds p (compare (2 * num) ((magValue p + magValue (p + 1)) * den))
  rw [hround, min_eq_right_iff]
  have hmid : magValue (infMag - 1) + magValue infMag = 2 * ((2 ^ 25 - 1) * 2 ^ 252) := by decide
  rcases Nat.lt_trichotomy p (infMag - 1) with hp | rfl | hp
  · have hv : magValue (p + 1) * den ≤ magValue (infMag - 1) * den :=
      Nat.mul_le_mul_right _ (magValue_strictMono.monotone (by omega))
    have hmax : magValue (infMag - 1) * den ≤ (2 ^ 25 - 1) * 2 ^ 252 * den := Nat.mul_le_mul_right _ (by decide)
    exact ⟨fun h => by omega, fun h => by omega⟩
  · rw [show infMag - 1 + 1 = infMag from rfl, hmid] at hcmp ⊢
    generalize (2 ^ 25 - 1) * 2 ^ 252 = mid at *
    rw [Nat.mul_assoc] at hcmp ⊢
    generalize compare (2 * num) (2 * (mid * den)) = o at *
    cases o with
    | lt => exact ⟨fun h => absurd h (by decide), fun h => absurd (show 2 * num < 2 * (mid * den) from hcmp) (by omega)⟩
    | gt => exact ⟨fun _ => by have : 2 * (mid * den) < 2 * num := hcmp; omega, fun _ => by decide⟩
    | eq => exact ⟨fun _ => by have : 2 * num = 2 * (mid * den) := hcmp; omega, fun _ => by decide⟩
  · have hv : magValue infMag * den ≤ magValue p * den :=
      Nat.mul_le_mul_right _ (magValue_strictMono.monotone (by omega))
    have hinf : (2 ^ 25 - 1) * 2 ^ 252 * den ≤ magValue infMag * den := Nat.mul_le_mul_right _ (by decide)
    exact ⟨fun _ => by omega, fun _ => by omega⟩

theorem roundMag_le_infMag (num den : Nat) : roundMag num den ≤ infMag := Nat.min_le_right _ _

/-- One unit or more does not round to zero. -/
theorem roundMag_ne_zero {num : Nat} (h : 0 < num) : roundMag num 1 ≠ 0 := by
  intro h0
  have hnear := magNearest_roundMag (num := num) Nat.one_pos (by rw [h0]; decide)
  rw [h0] at hnear
  obtain ⟨hle, -⟩ := (hnear 1).1 Nat.zero_lt_one
  have : (1 : ℝ) ≤ num := by exact_mod_cast h
  rw [magValue_zero, magValue_one, Nat.cast_one, div_one] at hle
  norm_num at hle
  linarith

/-- Settles O42: the nearest magnitude, its distances multiplied by den. -/
theorem roundingIsNearestEven : Obligations.RoundingIsNearestEven := by
  unfold Obligations.RoundingIsNearestEven
  intro num den hden
  refine ⟨fun hfin p _ hne => ?_, roundMag_eq_infMag_iff num hden⟩
  obtain ⟨hle, heven⟩ := (magNearest_roundMag hden hfin).abs_le hne
  have hd : (0 : ℝ) < den := by exact_mod_cast hden
  have hscale : ∀ q : Nat, ((|(magValue q * den : Int) - num| : Int) : ℝ) = |(magValue q : ℝ) - num / den| * den := by
    intro q
    rw [← abs_of_pos hd, ← abs_mul, abs_of_pos hd, sub_mul, div_mul_cancel₀ _ hd.ne']
    push_cast
    rfl
  constructor
  · rw [← Int.cast_le (R := ℝ), hscale, hscale]
    exact mul_le_mul_of_nonneg_right hle hd.le
  · intro heq
    refine heven (mul_right_cancel₀ hd.ne' ?_)
    rw [← hscale, ← hscale, heq]

end Sys2Proof.Proofs.Rounding
end

section
/-! The operations of NUM (00_scope.md R9, R10, 60_exceptions.md R418): the sign and magnitude of a packed word, correct
rounding of the four operations and of num(n), the NaN cases, and the divisor of R313. -/

namespace Sys2Proof.Proofs.Arithmetic

open Sys2Proof.Machine Sys2Proof.Proofs.Elements Sys2Proof.Proofs.Faults Sys2Proof.Proofs.Arrays
  Sys2Proof.Proofs.Rounding

/-! ### Sign and magnitude -/

theorem packFloat_toNat (neg : Bool) {mag : Nat} (h : mag < 2 ^ 31) :
    (packFloat neg mag).toNat = (if neg then 2 ^ 31 else 0) + mag := by
  rw [packFloat, BitVec.toNat_ofNat]
  split <;> omega

theorem magBits_packFloat (neg : Bool) {mag : Nat} (h : mag < 2 ^ 31) : magBits (packFloat neg mag) = mag := by
  rw [magBits, packFloat_toNat neg h]
  split <;> omega

theorem signBit_packFloat (neg : Bool) {mag : Nat} (h : mag < 2 ^ 31) : signBit (packFloat neg mag) = neg := by
  rw [signBit, BitVec.msb_eq_decide, packFloat_toNat neg h]
  cases neg
  · simpa using h
  · simp

theorem signBit_numNeg (x : Word) : signBit (numNeg x) = !signBit x := by
  rw [signBit, numNeg, BitVec.msb_xor, show (0x80000000#32).msb = true by decide, Bool.xor_true]
  rfl

theorem magBits_numNeg (x : Word) : magBits (numNeg x) = magBits x := by
  have h : ∀ y : Word, magBits y = (y.setWidth 31).toNat := fun y => by rw [BitVec.toNat_setWidth, magBits]
  rw [h, h, numNeg, BitVec.setWidth_xor]
  simp

theorem infMag_lt : infMag < 2 ^ 31 := by decide

/-- The sign of a word as a real factor. -/
def signFactor (neg : Bool) : ℝ := if neg then -1 else 1

@[simp] theorem signFactor_false : signFactor false = 1 := rfl

@[simp] theorem signFactor_true : signFactor true = -1 := rfl

theorem abs_signFactor (neg : Bool) : |signFactor neg| = 1 := by cases neg <;> simp

theorem realOfWord_eq (x : Word) : realOfWord x = signFactor (signBit x) * magValue (magBits x) / 2 ^ 149 := by
  unfold realOfWord floatInt signFactor
  split <;> simp

theorem realOfWord_numNeg (x : Word) : realOfWord (numNeg x) = -realOfWord x := by
  rw [realOfWord_eq, realOfWord_eq, signBit_numNeg, magBits_numNeg]
  cases signBit x <;> simp [signFactor, neg_div]

/-! ### Correct rounding -/

/-- A signed value is at least as far from a signed real as the magnitudes are from one another. -/
theorem abs_sub_le_abs_signed {a r : ℝ} (ha : 0 ≤ a) (hr : 0 ≤ r) (s s' : Bool) :
    |a - r| ≤ |signFactor s * a - signFactor s' * r| := by
  have hmul := mul_nonneg ha hr
  rw [← sq_le_sq]
  cases s <;> cases s' <;> simp only [signFactor_false, signFactor_true] <;> nlinarith only [hmul]

/-- The word of the nearest magnitude is nearest to the signed real. -/
theorem isNearestEven_packFloat (neg : Bool) {q : Nat} {r : ℝ} (hr : 0 ≤ r) (hq : q < infMag) (h : MagNearest q r) :
    IsNearestEven (packFloat neg q) (signFactor neg * r / 2 ^ 149) := by
  have hlt : q < 2 ^ 31 := hq.trans infMag_lt
  have hscale : (0 : ℝ) < 2 ^ 149 := by positivity
  have hv : |realOfWord (packFloat neg q) - signFactor neg * r / 2 ^ 149| = |(magValue q : ℝ) - r| / 2 ^ 149 := by
    rw [realOfWord_eq, signBit_packFloat neg hlt, magBits_packFloat neg hlt, ← sub_div, ← mul_sub, abs_div, abs_mul,
      abs_signFactor, one_mul, abs_of_pos hscale]
  have hu : ∀ u : Word, |(magValue (magBits u) : ℝ) - r| / 2 ^ 149 ≤ |realOfWord u - signFactor neg * r / 2 ^ 149| := by
    intro u
    rw [realOfWord_eq, ← sub_div, abs_div, abs_of_pos hscale]
    exact div_le_div_of_nonneg_right (abs_sub_le_abs_signed (by positivity) hr _ _) hscale.le
  have hle : ∀ u : Word, |(magValue q : ℝ) - r| ≤ |(magValue (magBits u) : ℝ) - r| := fun u => by
    by_cases hne : magBits u = q
    · rw [hne]
    · exact (h.abs_le hne).1
  refine ⟨⟨by rwa [magBits_packFloat neg hlt], fun u _ => ?_⟩, fun u _ heq hne => ?_⟩
  · rw [hv]
    exact (div_le_div_of_nonneg_right (hle u) hscale.le).trans (hu u)
  · rw [magBits_packFloat neg hlt] at hne ⊢
    refine (h.abs_le hne).2 ((hle u).antisymm ?_)
    have := hu u
    rw [heq, hv] at this
    exact (div_le_div_iff_of_pos_right hscale).1 this

/-- The word of a rounded quotient is the correct rounding of the signed quotient (R10). -/
theorem isRounded_roundMag (neg : Bool) (num : Nat) {den : Nat} (hden : 0 < den) :
    IsRounded (packFloat neg (roundMag num den)) (signFactor neg * (num / den) / 2 ^ 149) := by
  have hd : (0 : ℝ) < den := by exact_mod_cast hden
  have hr : (0 : ℝ) ≤ num / den := by positivity
  have habs : |signFactor neg * (num / den) / 2 ^ 149| = (num / den : ℝ) / 2 ^ 149 := by
    rw [abs_div, abs_mul, abs_signFactor, one_mul, abs_of_nonneg hr, abs_of_pos (by positivity)]
  have hthreshold : (2 ^ 25 - 1) * 2 ^ 103 ≤ (num / den : ℝ) / 2 ^ 149 ↔ roundMag num den = infMag := by
    rw [roundMag_eq_infMag_iff num hden, le_div_iff₀ (by positivity), le_div_iff₀ hd, ← Nat.cast_le (α := ℝ)]
    push_cast
    norm_num
  have hle := roundMag_le_infMag num den
  rw [IsRounded, habs]
  refine ⟨fun h => ?_, fun h => ?_⟩
  · have hfin : roundMag num den < infMag := lt_of_le_of_ne hle fun heq => absurd (hthreshold.2 heq) (not_le.2 h)
    exact isNearestEven_packFloat neg hr hfin (magNearest_roundMag hden hfin)
  · have heq := hthreshold.1 h
    have hpos : (0 : ℝ) < num / den := by
      by_contra hnot
      have : (num / den : ℝ) = 0 := le_antisymm (not_lt.1 hnot) hr
      rw [this] at h
      norm_num at h
    rw [heq]
    refine ⟨by rw [isInf, magBits_packFloat neg infMag_lt]; rfl, ?_⟩
    rw [signBit_packFloat neg infMag_lt]
    cases neg
    · simp only [signFactor_false, Bool.false_eq_true, false_iff, not_lt]
      positivity
    · simp only [signFactor_true, true_iff]
      have : (0 : ℝ) < num / den / 2 ^ 149 := by positivity
      rw [neg_one_mul, neg_div]
      linarith

theorem not_isNaN_of_finite {x : Word} (h : magBits x < infMag) : isNaN x = false := by
  rw [isNaN, decide_eq_false_iff_not]
  omega

theorem not_isInf_of_finite {x : Word} (h : magBits x < infMag) : isInf x = false := by
  rw [isInf, decide_eq_false_iff_not]
  omega

/-- The exact sum in units of 2^-149 is rounded correctly (R10). -/
theorem isRounded_addFinite (a b : Word) : IsRounded (addFinite a b) (realOfWord a + realOfWord b) := by
  have hsum : realOfWord a + realOfWord b = ((floatInt a + floatInt b : Int) : ℝ) / 2 ^ 149 := by
    rw [realOfWord, realOfWord, ← add_div, Int.cast_add]
  rw [hsum, addFinite]
  generalize floatInt a + floatInt b = k
  split
  · rename_i hk
    have := isRounded_roundMag (signBit a && signBit b) 0 (den := 1) (by decide)
    rw [show roundMag 0 1 = 0 by decide] at this
    simpa [hk] using this
  · have := isRounded_roundMag (decide (k < 0)) k.natAbs (den := 1) (by decide)
    have hsign : signFactor (decide (k < 0)) * ((k.natAbs : ℝ) / (1 : Nat)) = k := by
      rw [Nat.cast_one, div_one, Nat.cast_natAbs]
      by_cases hk : k < 0
      · rw [decide_eq_true hk, abs_of_neg hk]
        simp
      · rw [decide_eq_false hk, abs_of_nonneg (by omega)]
        simp
    rwa [hsign] at this

/-- Finite operands are added exactly, then rounded. -/
theorem addKind_of_finite (op : Config.NumOp) {a b : Word} (ha : magBits a < infMag) (hb : magBits b < infMag) :
    addKind op a b = addFinite a b := by
  simp [addKind, not_isNaN_of_finite ha, not_isNaN_of_finite hb, not_isInf_of_finite ha, not_isInf_of_finite hb]

theorem signFactor_signXor (a b : Word) :
    signFactor (signXor a b) = signFactor (signBit a) * signFactor (signBit b) := by
  unfold signXor
  cases signBit a <;> cases signBit b <;> simp

theorem isRounded_numMul {a b : Word} (ha : magBits a < infMag) (hb : magBits b < infMag) :
    IsRounded (numMul a b) (realOfWord a * realOfWord b) := by
  have hmul : numMul a b = packFloat (signXor a b) (roundMag (magValue (magBits a) * magValue (magBits b)) (2 ^ 149)) := by
    simp [numMul, not_isNaN_of_finite ha, not_isNaN_of_finite hb, not_isInf_of_finite ha, not_isInf_of_finite hb]
  have hval : realOfWord a * realOfWord b = signFactor (signXor a b) *
      (((magValue (magBits a) * magValue (magBits b) : Nat) : ℝ) / ((2 ^ 149 : Nat) : ℝ)) / 2 ^ 149 := by
    rw [realOfWord_eq, realOfWord_eq, signFactor_signXor]
    push_cast
    ring
  rw [hmul, hval]
  exact isRounded_roundMag _ _ (by positivity)

theorem isRounded_numDiv {a b : Word} (ha : magBits a < infMag) (hb : magBits b < infMag) (hne : magBits b ≠ 0) :
    IsRounded (numDiv a b) (realOfWord a / realOfWord b) := by
  have hdiv : numDiv a b = packFloat (signXor a b) (roundMag (magValue (magBits a) * 2 ^ 149) (magValue (magBits b))) := by
    simp [numDiv, not_isNaN_of_finite ha, not_isNaN_of_finite hb, not_isInf_of_finite ha, not_isInf_of_finite hb, hne]
  have hpos : 0 < magValue (magBits b) := Nat.pos_of_ne_zero (mt magValue_eq_zero_iff.1 hne)
  have hval : realOfWord a / realOfWord b = signFactor (signXor a b) *
      (((magValue (magBits a) * 2 ^ 149 : Nat) : ℝ) / (magValue (magBits b) : ℝ)) / 2 ^ 149 := by
    have hb0 : (magValue (magBits b) : ℝ) ≠ 0 := by exact_mod_cast hpos.ne'
    rw [realOfWord_eq, realOfWord_eq, signFactor_signXor]
    rw [Nat.cast_mul, Nat.cast_pow, Nat.cast_ofNat]
    have hc : (2 : ℝ) ^ 149 ≠ 0 := by positivity
    generalize (2 : ℝ) ^ 149 = c at *
    cases signBit b
    · simp only [signFactor_false]
      field_simp
    · simp only [signFactor_true]
      field_simp
  rw [hdiv, hval]
  exact isRounded_roundMag _ _ hpos

/-- Settles O43: each operation packs the rounding of its exact result. -/
theorem arithmeticIsCorrectlyRounded : Obligations.ArithmeticIsCorrectlyRounded := by
  unfold Obligations.ArithmeticIsCorrectlyRounded
  refine ⟨fun a b ha hb => ⟨?_, ?_, isRounded_numMul ha hb, isRounded_numDiv ha hb⟩, fun n => ?_⟩
  · rw [numAdd, addKind_of_finite _ ha hb]
    exact isRounded_addFinite a b
  · have hneg : magBits (numNeg b) < infMag := by rwa [magBits_numNeg]
    rw [numSub, not_isNaN_of_finite ha, not_isNaN_of_finite hb, sub_eq_add_neg, ← realOfWord_numNeg]
    simp only [Bool.or_self, Bool.false_eq_true, if_false, addKind_of_finite _ ha hneg]
    exact isRounded_addFinite a (numNeg b)
  · have := isRounded_roundMag false (n * 2 ^ 149) (den := 1) (by decide)
    rw [numOfNat]
    convert this using 1
    rw [signFactor_false, one_mul, Nat.cast_one, div_one, Nat.cast_mul, Nat.cast_pow, Nat.cast_ofNat, mul_div_cancel_right₀ _ (by positivity)]

/-! ### NaN -/

/-- The fraction of a NaN result is not 0 (R418). -/
theorem nanResult_frac (n : Nat) :
    0 < (if n % 2 ^ 23 = 0 then 0x400000 else n % 2 ^ 23) ∧
      (if n % 2 ^ 23 = 0 then 0x400000 else n % 2 ^ 23) < 2 ^ 23 := by
  split
  · decide
  · exact ⟨by omega, Nat.mod_lt _ (by decide)⟩

/-- Any fraction bits but 0 with the exponent of infinity are a NaN (R418). -/
theorem isNaN_packFloat (neg : Bool) {frac : Nat} (hpos : 0 < frac) (hlt : frac < 2 ^ 23) :
    isNaN (packFloat neg (infMag + frac)) = true := by
  rw [isNaN, magBits_packFloat neg (by rw [infMag]; omega)]
  exact decide_eq_true (by omega)

theorem isNaN_nanResult (op : Config.NumOp) (a b : Word) : isNaN (nanResult op a b) = true := by
  obtain ⟨hpos, hlt⟩ := nanResult_frac (Config.nanBits op a b).toNat
  exact isNaN_packFloat (Config.nanBits op a b).msb hpos hlt

theorem not_isNaN_of_isInf {x : Word} (h : isInf x = true) : isNaN x = false := by
  rw [isInf, decide_eq_true_iff] at h
  rw [isNaN, decide_eq_false_iff_not]
  omega

theorem magBits_zero_finite {x : Word} (h : magBits x = 0) : magBits x < infMag := by
  rw [h]
  decide

theorem isInf_numNeg (x : Word) : isInf (numNeg x) = isInf x := by rw [isInf, magBits_numNeg, isInf]

/-- Infinities of different signs have no sum. -/
theorem isNaN_addKind_of_infs (op : Config.NumOp) {a b : Word} (ha : isInf a = true) (hb : isInf b = true)
    (hne : signBit a ≠ signBit b) : isNaN (addKind op a b) = true := by
  simp [addKind, not_isNaN_of_isInf ha, not_isNaN_of_isInf hb, ha, hb, hne, isNaN_nanResult]

/-- Settles O44: each case takes the NaN result of its operation. -/
theorem naNPropagates : Obligations.NaNPropagates := by
  unfold Obligations.NaNPropagates
  refine ⟨fun a b h => ?_, fun a b ha hb => ⟨?_, isNaN_addKind_of_infs _ ha hb, fun heq => ?_⟩, fun a b ha hb => ?_,
    fun a b ha hb => ?_⟩
  · have h : (isNaN a || isNaN b) = true := by rwa [Bool.or_eq_true]
    simp [numAdd, addKind, numSub, numMul, numDiv, h, isNaN_nanResult]
  · simp [numDiv, not_isNaN_of_isInf ha, not_isNaN_of_isInf hb, ha, hb, isNaN_nanResult]
  · rw [numSub, not_isNaN_of_isInf ha, not_isNaN_of_isInf hb, Bool.or_self, if_neg Bool.false_ne_true]
    refine isNaN_addKind_of_infs _ ha (by rwa [isInf_numNeg]) ?_
    rw [signBit_numNeg, heq]
    cases signBit b <;> decide
  · have hfin := magBits_zero_finite ha
    simp [numMul, not_isNaN_of_finite hfin, not_isNaN_of_isInf hb, hb, ha, isNaN_nanResult]
  · have hfa := magBits_zero_finite ha
    have hfb := magBits_zero_finite hb
    simp [numDiv, not_isNaN_of_finite hfa, not_isNaN_of_finite hfb, not_isInf_of_finite hfa, not_isInf_of_finite hfb, ha,
      hb, isNaN_nanResult]

/-! ### The divisor -/

/-- No NaN and not negative: +0, a positive finite value or +infinity. -/
def NonNegative (x : Word) : Prop := signBit x = false ∧ magBits x ≤ infMag

theorem not_isNaN_of_nonNegative {x : Word} (h : NonNegative x) : isNaN x = false := by
  rw [isNaN, decide_eq_false_iff_not]
  exact Nat.not_lt.2 h.2

theorem nonNegative_packFloat {mag : Nat} (h : mag ≤ infMag) : NonNegative (packFloat false mag) := by
  have hlt : mag < 2 ^ 31 := h.trans_lt infMag_lt
  exact ⟨signBit_packFloat _ hlt, by rwa [magBits_packFloat _ hlt]⟩

theorem floatInt_of_nonNegative {x : Word} (h : NonNegative x) : floatInt x = magValue (magBits x) := by
  rw [floatInt, h.1]
  rfl

/-- A sum of non-negative values is non-negative, and not zero when the second is not. -/
theorem nonNegative_numAdd {a b : Word} (ha : NonNegative a) (hb : NonNegative b) :
    NonNegative (numAdd a b) ∧ (magBits b ≠ 0 → magBits (numAdd a b) ≠ 0) := by
  have hinf : ∀ {x : Word}, isInf x = true → magBits x ≠ 0 := fun h h0 => by
    rw [isInf, h0] at h
    exact absurd h (by decide)
  obtain ⟨hsa, -⟩ := id ha
  obtain ⟨hsb, -⟩ := id hb
  rw [numAdd, addKind, not_isNaN_of_nonNegative ha, not_isNaN_of_nonNegative hb]
  by_cases hia : isInf a = true
  · by_cases hib : isInf b = true
    · simpa [hia, hib, hsa, hsb] using ⟨ha, fun _ => hinf hia⟩
    · simpa [hia, hib] using ⟨ha, fun _ => hinf hia⟩
  · by_cases hib : isInf b = true
    · simpa [hia, hib] using hb
    · simp only [hia, hib, Bool.or_self, Bool.and_self, Bool.false_eq_true, if_false, addFinite,
        floatInt_of_nonNegative ha, floatInt_of_nonNegative hb, hsa]
      split
      · rename_i hzero
        refine ⟨nonNegative_packFloat (Nat.zero_le _), fun hne => absurd ?_ hne⟩
        exact magValue_eq_zero_iff.1 (by omega)
      · rename_i hne
        rw [decide_eq_false (by omega)]
        have hle := roundMag_le_infMag ((magValue (magBits a) + magValue (magBits b) : Int).natAbs) 1
        refine ⟨nonNegative_packFloat hle, fun _ => ?_⟩
        rw [magBits_packFloat _ (hle.trans_lt infMag_lt)]
        exact roundMag_ne_zero (by omega)

/-- A square is non-negative. -/
theorem nonNegative_square {w : Word} (h : magBits w ≤ infMag) : NonNegative (numMul w w) := by
  have hnan : isNaN w = false := by
    rw [isNaN, decide_eq_false_iff_not]
    exact Nat.not_lt.2 h
  have hsign : signXor w w = false := by simp [signXor]
  rw [numMul, hnan, hsign]
  by_cases hinf : isInf w = true
  · have hne : magBits w ≠ 0 := fun h0 => by
      rw [isInf, h0] at hinf
      exact absurd hinf (by decide)
    simpa [hinf, hne] using nonNegative_packFloat (Nat.le_refl _)
  · simpa [hinf] using nonNegative_packFloat (roundMag_le_infMag _ _)

/-- Adding non-negative terms frame by frame keeps a position non-negative (R225). -/
theorem nonNegative_foldAt {W H k : Nat} {T : Nat → Nat → Word} (hT : ∀ f i, i < W → NonNegative (T f i)) {fs : List Nat}
    {v : Word} (hv : NonNegative v) : NonNegative (foldAt binary32 W H T k v fs) := by
  induction fs generalizing v with
  | nil => exact hv
  | cons f fs ih =>
    refine ih ?_
    beta_reduce
    split
    · exact (nonNegative_numAdd hv (hT f _ (by omega))).1
    · exact hv

end Sys2Proof.Proofs.Arithmetic
end

section
/-! The rounded constants of the configuration (00_scope.md R16, R17): rounding by comparison, the scales, and the default
window with its two ways to the cosine, exact comparison and bounds. -/

namespace Sys2Proof.Proofs.Constants

open Sys2Proof.Machine Sys2Proof.Proofs.Execution Sys2Proof.Proofs.Elements Sys2Proof.Proofs.Faults
  Sys2Proof.Proofs.Arrays Sys2Proof.Proofs.Rounding Sys2Proof.Proofs.Arithmetic

/-! ### Rounding by comparison -/

/-- `cmp M` compares r with M. -/
def ComparesWith (cmp : Nat → Ordering) (r : ℝ) : Prop := ∀ M : Nat, (cmp M).Compares r M

/-- Bisection ends where the test turns from true to false. -/
theorem searchMag_spec {ge : Nat → Bool} (bits : Nat) {p : Nat} (hlo : ge p = true) (hhi : ge (p + 2 ^ bits) = false) :
    ge (searchMag ge bits p) = true ∧ ge (searchMag ge bits p + 1) = false := by
  induction bits generalizing p with
  | zero => exact ⟨hlo, hhi⟩
  | succ bits ih =>
    rw [searchMag]
    by_cases hmid : ge (p + 2 ^ bits) = true
    · rw [if_pos hmid]
      exact ih hmid (by rwa [Nat.add_assoc, ← Nat.two_mul, ← pow_succ'])
    · rw [if_neg hmid]
      exact ih hlo (by simpa using hmid)

theorem compares_ne_lt_iff {o : Ordering} {a b : ℝ} (h : o.Compares a b) : (o != .lt) = true ↔ b ≤ a := by
  cases o with
  | lt => exact ⟨fun h' => absurd h' (by decide), fun h' => absurd h' (not_le.2 h)⟩
  | gt => exact ⟨fun _ => le_of_lt h, fun _ => rfl⟩
  | eq => exact ⟨fun _ => ge_of_eq h, fun _ => rfl⟩

theorem roundReal_eq (cmp : Nat → Ordering) :
    roundReal cmp = roundFrom (searchMag (fun p => cmp (2 * magValue p) != .lt) 31 0)
      (cmp (magValue (searchMag (fun p => cmp (2 * magValue p) != .lt) 31 0) +
        magValue (searchMag (fun p => cmp (2 * magValue p) != .lt) 31 0 + 1))) := by
  unfold roundReal roundFrom
  split <;> simp [*]

/-- A real below the largest finite value, given by comparisons in units of 2^-150, is rounded to the nearest magnitude. -/
theorem roundReal_nearest {cmp : Nat → Ordering} {r : ℝ} (hcmp : ComparesWith cmp (2 * r)) (h0 : 0 ≤ r)
    (hr : r < magValue (infMag - 1)) : roundReal cmp < infMag ∧ MagNearest (roundReal cmp) r := by
  have hge : ∀ p, (cmp (2 * magValue p) != .lt) = true ↔ (magValue p : ℝ) ≤ r := fun p => by
    rw [compares_ne_lt_iff (hcmp _), Nat.cast_mul, Nat.cast_ofNat]
    exact mul_le_mul_iff_right₀ two_pos
  obtain ⟨hlo, hhi⟩ := searchMag_spec (ge := fun p => cmp (2 * magValue p) != .lt) 31 (p := 0)
    ((hge 0).2 (by simpa using h0)) (by
      rw [← Bool.not_eq_true, hge, not_le]
      exact hr.trans (cast_magValue_lt (by decide)))
  rw [roundReal_eq]
  generalize searchMag (fun p => cmp (2 * magValue p) != .lt) 31 0 = p at *
  rw [← Bool.not_eq_true, hge, not_le] at hhi
  rw [hge] at hlo
  have hp : p < infMag - 1 := by
    by_contra hnot
    have : (magValue (infMag - 1) : ℝ) ≤ magValue p := by exact_mod_cast magValue_strictMono.monotone (not_lt.1 hnot)
    linarith
  constructor
  · unfold roundFrom
    split <;> omega
  · refine magNearest_roundFrom hlo hhi ?_
    have := hcmp (magValue p + magValue (p + 1))
    push_cast at this
    exact this

/-- The nearest word of a non-negative real given by comparisons. -/
theorem isNearestEven_roundReal {cmp : Nat → Ordering} {r : ℝ} (hcmp : ComparesWith cmp (r * 2 ^ 150)) (h0 : 0 ≤ r)
    (hr : r ≤ 2 ^ 32) : IsNearestEven (packFloat false (roundReal cmp)) r := by
  have hr0 : 0 ≤ r * 2 ^ 149 := mul_nonneg h0 (pow_nonneg zero_le_two _)
  have hunits : (2 : ℝ) * (r * 2 ^ 149) = r * 2 ^ 150 := by ring
  obtain ⟨hfin, hnear⟩ := roundReal_nearest (cmp := cmp) (r := r * 2 ^ 149) (by rwa [hunits]) hr0 (by
    have hmax : (2 : ℝ) ^ 32 * 2 ^ 149 < magValue (infMag - 1) := by
      exact_mod_cast (show 2 ^ 32 * 2 ^ 149 < magValue (infMag - 1) by decide)
    exact (mul_le_mul_of_nonneg_right hr (by positivity)).trans_lt hmax)
  have := isNearestEven_packFloat false hr0 hfin hnear
  rwa [signFactor_false, one_mul, mul_div_cancel_right₀ _ (show (2 : ℝ) ^ 149 ≠ 0 by positivity)] at this

/-! ### The scales -/

/-- Non-negative reals compare as their squares do. -/
theorem compares_of_sq {o : Ordering} {a b : ℝ} (ha : 0 ≤ a) (hb : 0 ≤ b) (h : o.Compares (a ^ 2) (b ^ 2)) :
    o.Compares a b :=
  ((pow_left_strictMonoOn₀ two_ne_zero).compares (s := Set.Ici 0) ha hb).1 h

/-- A comparison of naturals is that of their reals. -/
theorem compares_cast (a b : Nat) : (compare a b).Compares (a : ℝ) (b : ℝ) :=
  Nat.strictMono_cast.compares.2 ((compare_iff _ _).1 rfl)

theorem sqrtCmp_comparesWith (W : Nat) : ComparesWith (sqrtCmp W) (Real.sqrt W * 2 ^ 150) := by
  intro M
  refine compares_of_sq (by positivity) (by positivity) ?_
  rw [mul_pow, Real.sq_sqrt (by positivity)]
  have := compares_cast (W * 2 ^ 150 * 2 ^ 150) (M * M)
  rw [Nat.cast_mul, Nat.cast_mul, Nat.cast_pow, Nat.cast_ofNat, Nat.cast_mul] at this
  rw [sq (2 ^ 150 : ℝ), sq (M : ℝ), ← mul_assoc]
  exact this

theorem rsqrtCmp_comparesWith {W : Nat} (hW : 0 < W) : ComparesWith (rsqrtCmp W) (1 / Real.sqrt W * 2 ^ 150) := by
  intro M
  have hw : (0 : ℝ) < W := by exact_mod_cast hW
  refine compares_of_sq (by positivity) (by positivity) ?_
  rw [mul_pow, div_pow, Real.sq_sqrt hw.le]
  have hdiv : StrictMono fun x : ℝ => x / W := fun x y h => div_lt_div_of_pos_right h hw
  have h := hdiv.compares.2 (compares_cast (2 ^ 150 * 2 ^ 150) (M * M * W))
  rw [Nat.cast_mul, Nat.cast_mul, Nat.cast_mul, Nat.cast_pow, Nat.cast_ofNat] at h
  rw [mul_div_cancel_right₀ _ hw.ne', ← sq (2 ^ 150 : ℝ), ← sq (M : ℝ)] at h
  rwa [one_pow, div_mul_eq_mul_div, one_mul]

/-- Settles O46: both scales are rounded by comparison. -/
theorem scalesAreCorrectlyRounded : Obligations.ScalesAreCorrectlyRounded := by
  unfold Obligations.ScalesAreCorrectlyRounded
  intro W h2 hW
  have hw1 : (1 : ℝ) ≤ W := by exact_mod_cast (show 1 ≤ W by omega)
  have hsqrt1 : 1 ≤ Real.sqrt W := Real.one_le_sqrt.2 hw1
  have hsqrt : Real.sqrt W ≤ 2 ^ 32 := by
    have hself : Real.sqrt W ≤ W := Real.sqrt_le_iff.2 ⟨by linarith, by nlinarith⟩
    exact hself.trans (by exact_mod_cast hW.le)
  refine ⟨isNearestEven_roundReal (rsqrtCmp_comparesWith (by omega)) (by positivity) ?_,
    isNearestEven_roundReal (sqrtCmp_comparesWith W) (Real.sqrt_nonneg _) hsqrt⟩
  exact ((div_le_one (by linarith)).2 hsqrt1).trans (by norm_num)

/-! ### The cosine by exact comparison -/

/-- The angle of index i of a window of length W. -/
noncomputable def angle (W i : Nat) : ℝ := 2 * Real.pi * i / W

theorem refWindow_eq (W i : Nat) : refWindow W i = (1 - Real.cos (angle W i)) / 2 := by
  rw [refWindow, angle]
  ring

/-- Doubling an index doubles the angle. -/
theorem cos_angle_double (W i : Nat) : Real.cos (angle W (2 * i)) = 2 * Real.cos (angle W i) ^ 2 - 1 := by
  rw [← Real.cos_two_mul, angle, angle, Nat.cast_mul, Nat.cast_ofNat]
  congr 1
  ring

/-- Indices from the two ends have one cosine. -/
theorem cos_angle_sub {W i : Nat} (hW : 0 < W) (hi : i ≤ W) : Real.cos (angle W (W - i)) = Real.cos (angle W i) := by
  have hw : (W : ℝ) ≠ 0 := by exact_mod_cast hW.ne'
  rw [← Real.cos_two_pi_sub, angle, angle, Nat.cast_sub hi]
  congr 1
  field_simp
  ring

/-- Halving the length and the index keeps the angle. -/
theorem angle_two_mul (W i : Nat) : angle (2 * W) (2 * i) = angle W i := by
  rw [angle, angle, Nat.cast_mul, Nat.cast_mul, Nat.cast_ofNat]
  rw [show 2 * Real.pi * (2 * (i : ℝ)) = 2 * (2 * Real.pi * i) by ring, mul_div_mul_left _ _ two_ne_zero]

theorem angle_le_pi {W i : Nat} (hW : 0 < W) (hi : 2 * i ≤ W) : angle W i ≤ Real.pi := by
  have hw : (0 : ℝ) < W := by exact_mod_cast hW
  have : (2 * i : ℝ) ≤ W := by exact_mod_cast hi
  rw [angle, div_le_iff₀ hw]
  nlinarith [Real.pi_pos]

theorem angle_nonneg (W i : Nat) : 0 ≤ angle W i := by
  have := Real.pi_pos
  rw [angle]
  positivity

theorem angle_lt_pi_div_two {W i : Nat} (hW : 0 < W) (hi : 4 * i < W) : angle W i < Real.pi / 2 := by
  have hw : (0 : ℝ) < W := by exact_mod_cast hW
  have : (4 * i : ℝ) < W := by exact_mod_cast hi
  rw [angle, div_lt_iff₀ hw]
  nlinarith [Real.pi_pos]

theorem pi_div_two_lt_angle {W i : Nat} (hW : 0 < W) (hi : W < 4 * i) : Real.pi / 2 < angle W i := by
  have hw : (0 : ℝ) < W := by exact_mod_cast hW
  have : (W : ℝ) < 4 * i := by exact_mod_cast hi
  rw [angle, lt_div_iff₀ hw]
  nlinarith [Real.pi_pos]

/-- In the first quadrant the cosine is positive, -/
theorem cos_angle_pos {W i : Nat} (hW : 0 < W) (hi : 4 * i < W) : 0 < Real.cos (angle W i) :=
  Real.cos_pos_of_mem_Ioo ⟨by linarith [angle_nonneg W i, Real.pi_pos], angle_lt_pi_div_two hW hi⟩

/-- in the second it is negative. -/
theorem cos_angle_neg {W i : Nat} (hW : 0 < W) (hlo : W < 4 * i) (hhi : 2 * i ≤ W) : Real.cos (angle W i) < 0 :=
  Real.cos_neg_of_pi_div_two_lt_of_lt (pi_div_two_lt_angle hW hlo) (by linarith [angle_le_pi hW hhi, Real.pi_pos])

theorem cos_angle_quarter {W i : Nat} (hW : 0 < W) (hi : 4 * i = W) : Real.cos (angle W i) = 0 := by
  have hw : (i : ℝ) ≠ 0 := by exact_mod_cast (show i ≠ 0 by omega)
  rw [← Real.cos_pi_div_two, angle, ← hi, Nat.cast_mul, Nat.cast_ofNat]
  congr 1
  field_simp
  norm_num

/-- A comparison of 2c² - 1 with 2x² - 1 is one of c² with x². -/
theorem compares_double {o : Ordering} {c x : ℝ} (h : o.Compares (2 * c ^ 2 - 1) (2 * x ^ 2 - 1)) :
    o.Compares (c ^ 2) (x ^ 2) := by
  have hmono : StrictMono fun y : ℝ => 2 * y - 1 := fun a b hab => by
    beta_reduce
    linarith
  exact hmono.compares.1 h

/-- In the first quadrant the doubled angle decides, -/
theorem compares_of_double {o : Ordering} {c x : ℝ} (hc : 0 ≤ c) (hx : 0 ≤ x)
    (h : o.Compares (2 * c ^ 2 - 1) (2 * x ^ 2 - 1)) : o.Compares c x := compares_of_sq hc hx (compares_double h)

/-- in the second its opposite. -/
theorem compares_of_double_neg {o : Ordering} {c x : ℝ} (hc : c ≤ 0) (hx : x ≤ 0)
    (h : o.Compares (2 * c ^ 2 - 1) (2 * x ^ 2 - 1)) : o.swap.Compares c x := by
  rw [← neg_sq c, ← neg_sq x] at h
  have hneg := compares_of_double (neg_nonneg.2 hc) (neg_nonneg.2 hx) h
  have hanti : StrictAnti fun y : ℝ => -y := fun a b hab => neg_lt_neg hab
  exact Ordering.compares_swap.2 (hanti.compares.1 hneg)

theorem strictMono_div_int {den : Int} (hden : 0 < den) : StrictMono fun n : Int => (n / den : ℝ) := fun _ _ h =>
  div_lt_div_of_pos_right (by exact_mod_cast h) (by exact_mod_cast hden)

/-- The fraction `cosCmp` goes on with is the doubled one. -/
theorem double_fraction {num den : Int} (hden : 0 < den) :
    ((2 * num * num - den * den : Int) : ℝ) / ((den * den : Int) : ℝ) = 2 * (num / den : ℝ) ^ 2 - 1 := by
  have hd : (den : ℝ) ≠ 0 := by exact_mod_cast hden.ne'
  push_cast
  field_simp

/-- `cosCmp` compares the cosine with num/den, by the doubling of the angle. -/
theorem cosCmp_compares (k : Nat) {i : Nat} {num den : Int} (hi : 2 * i ≤ 2 ^ k) (hden : 0 < den) :
    (cosCmp k i num den).Compares (Real.cos (angle (2 ^ k) i)) (num / den) := by
  have hd : (0 : ℝ) < den := by exact_mod_cast hden
  have hmono := strictMono_div_int hden
  induction k generalizing i num den with
  | zero =>
    obtain rfl : i = 0 := by omega
    have := hmono.compares.2 ((compare_iff den num).1 rfl)
    rwa [div_self hd.ne', ← Real.cos_zero, show (0 : ℝ) = angle (2 ^ 0) 0 by simp [angle]] at this
  | succ k ih =>
    have hW : 0 < 2 ^ (k + 1) := by positivity
    have hpow : 2 ^ (k + 1) = 2 * 2 ^ k := pow_succ' 2 k
    have hdd : 0 < den * den := by positivity
    have hdouble := fun j (hj : 2 * j ≤ 2 ^ k) => ih (i := j) (num := 2 * num * num - den * den) hj hdd
      (by exact_mod_cast hdd) (strictMono_div_int hdd)
    simp only [double_fraction hden] at hdouble
    rw [cosCmp]
    split
    · rename_i hq
      rw [cos_angle_quarter hW hq]
      have := hmono.compares.2 ((compare_iff 0 num).1 rfl)
      rwa [Int.cast_zero, zero_div] at this
    · split
      · rename_i hq
        have hpos := cos_angle_pos hW hq
        split
        · rename_i hnum
          exact (div_nonpos_of_nonpos_of_nonneg (by exact_mod_cast hnum) hd.le).trans_lt hpos
        · rename_i hnum
          have h := hdouble i (by omega)
          rw [← angle_two_mul, ← hpow, cos_angle_double] at h
          exact compares_of_double hpos.le (div_nonneg (by exact_mod_cast (not_le.1 hnum).le) hd.le) h
      · have hneg := cos_angle_neg hW (by omega) hi
        split
        · rename_i hnum
          exact hneg.trans_le (div_nonneg (by exact_mod_cast hnum) hd.le)
        · rename_i hnum
          have h := hdouble (2 ^ k - i) (by omega)
          rw [cos_angle_sub (by positivity) (by omega), ← angle_two_mul, ← hpow, cos_angle_double] at h
          exact compares_of_double_neg hneg.le
            (div_nonpos_of_nonpos_of_nonneg (by exact_mod_cast (not_le.1 hnum).le) hd.le) h

/-- `hannCmp` compares the window value with units of 2^-150 (R16). -/
theorem hannCmp_comparesWith {k i : Nat} (hi : 2 * i ≤ 2 ^ k) :
    ComparesWith (hannCmp k i) (refWindow (2 ^ k) i * 2 ^ 150) := by
  intro M
  obtain ⟨g, hg⟩ : ∃ g, g = Nat.gcd M (2 ^ 149) := ⟨_, rfl⟩
  have hgpos : 0 < g := hg ▸ Nat.gcd_pos_of_pos_right M (by positivity)
  obtain ⟨a, ha⟩ : g ∣ M := hg ▸ Nat.gcd_dvd_left M (2 ^ 149)
  obtain ⟨d, hd⟩ : g ∣ 2 ^ 149 := hg ▸ Nat.gcd_dvd_right M (2 ^ 149)
  have hdpos : 0 < d := Nat.pos_of_ne_zero fun h0 => by simp [h0] at hd
  have hcast : (2 ^ 149 : Int) = ((2 ^ 149 : Nat) : Int) := by norm_cast
  have hdiv : (2 ^ 149 : Int) / g = d := by
    rw [hcast, hd, Nat.cast_mul, Int.mul_ediv_cancel_left _ (by exact_mod_cast hgpos.ne')]
  have hcmp := cosCmp_compares k (num := (d : Int) - a) (den := d) hi (by exact_mod_cast hdpos)
  have hx : (((d : Int) - a : Int) : ℝ) / ((d : Int) : ℝ) = 1 - M / 2 ^ 149 := by
    have hdr : (2 : ℝ) ^ 149 = g * d := by exact_mod_cast hd
    have hd0 : (d : ℝ) ≠ 0 := by exact_mod_cast hdpos.ne'
    have hg0 : (g : ℝ) ≠ 0 := by exact_mod_cast hgpos.ne'
    rw [hdr, ha]
    push_cast
    field_simp
  have hunfold : hannCmp k i M = (cosCmp k i ((d : Int) - a) d).swap := by
    unfold hannCmp
    extract_lets g'
    have h : g' = g := hg.symm
    rw [h, hdiv, ha, Nat.mul_div_cancel_left _ hgpos]
  have hanti : StrictAnti fun y : ℝ => (1 - y) * 2 ^ 149 := fun y z hyz =>
    mul_lt_mul_of_pos_right (by linarith) (by positivity)
  rw [hx] at hcmp
  have h := hanti.compares.2 (Ordering.compares_swap.2 hcmp)
  have hw : refWindow (2 ^ k) i * 2 ^ 150 = (1 - Real.cos (angle (2 ^ k) i)) * 2 ^ 149 := by
    rw [refWindow_eq]
    ring
  have hM : (1 - (1 - (M : ℝ) / 2 ^ 149)) * 2 ^ 149 = M := by
    rw [sub_sub_cancel, div_mul_cancel₀ _ (show (2 : ℝ) ^ 149 ≠ 0 by positivity)]
  rw [hunfold, hw]
  beta_reduce at h
  rwa [hM] at h

/-! ### The cosine by bounds -/

theorem sqrtDown_spec {n : Nat} (hn : n < 2 ^ 193 * 2 ^ 193) :
    (sqrtDown n : ℝ) ≤ Real.sqrt n ∧ Real.sqrt n ≤ (sqrtDown n + 1 : Nat) := by
  obtain ⟨hlo, hhi⟩ := searchMag_spec (ge := fun r => decide (r * r ≤ n)) 193 (p := 0) (by simp)
    (decide_eq_false (by rw [Nat.zero_add]; omega))
  rw [decide_eq_true_eq] at hlo
  rw [decide_eq_false_iff_not, not_le] at hhi
  constructor
  · exact Real.le_sqrt_of_sq_le (by rw [sq]; exact_mod_cast hlo)
  · exact Real.sqrt_le_iff.2 ⟨by positivity, by rw [sq]; exact_mod_cast hhi.le⟩

/-- The half-angle bounds of 1 + cos 2θ, in units of 2^-192. -/
theorem halfAngle_spec {u : Nat} (hu : u ≤ 2 * cosOne) :
    (halfAngleDown u : ℝ) ≤ Real.sqrt (u * 2 ^ 191) ∧ Real.sqrt (u * 2 ^ 191) ≤ halfAngleUp u := by
  have hcos : cosOne = 2 ^ 192 := rfl
  obtain ⟨hlo, hhi⟩ := sqrtDown_spec (n := u * 2 ^ 191) (by omega)
  rw [Nat.cast_mul, Nat.cast_pow, Nat.cast_ofNat] at hlo hhi
  refine ⟨hlo, ?_⟩
  rw [halfAngleUp, Nat.cast_min]
  refine le_min (Real.sqrt_le_iff.2 ⟨by positivity, ?_⟩) hhi
  have : u * 2 ^ 191 ≤ cosOne ^ 2 := by
    rw [sq]
    calc u * 2 ^ 191 ≤ 2 * cosOne * 2 ^ 191 := Nat.mul_le_mul_right _ hu
      _ = cosOne * cosOne := by rw [hcos]; norm_num
  exact_mod_cast this

/-- The half-angle formula in units of 2^-192. -/
theorem sqrt_half_angle (W i : Nat) :
    Real.sqrt ((1 + Real.cos (angle W (2 * i))) * cosOne * 2 ^ 191) = |Real.cos (angle W i)| * cosOne := by
  have h : (1 + Real.cos (angle W (2 * i))) * cosOne * 2 ^ 191 = (Real.cos (angle W i) * cosOne) ^ 2 := by
    rw [cos_angle_double, cosOne, Nat.cast_pow, Nat.cast_ofNat]
    ring
  rw [h, Real.sqrt_sq_eq_abs, abs_mul, abs_of_nonneg (show (0 : ℝ) ≤ cosOne by positivity)]

/-- u and v bound 1 + cos of the angle of index i, in units of 2^-192. -/
def CosBounded (W i u v : Nat) : Prop :=
  (u : ℝ) ≤ (1 + Real.cos (angle W i)) * cosOne ∧ (1 + Real.cos (angle W i)) * cosOne ≤ v ∧ v ≤ 2 * cosOne

/-- Bounds at 2i give bounds on the cosine's magnitude at i. -/
theorem CosBounded.halfAngle {W i u v : Nat} (h : CosBounded W (2 * i) u v) :
    (halfAngleDown u : ℝ) ≤ |Real.cos (angle W i)| * cosOne ∧ |Real.cos (angle W i)| * cosOne ≤ halfAngleUp v := by
  obtain ⟨hlo, hhi, hv⟩ := h
  have huv : u ≤ v := by exact_mod_cast hlo.trans hhi
  have hu : u ≤ 2 * cosOne := huv.trans hv
  rw [← sqrt_half_angle]
  refine ⟨(halfAngle_spec hu).1.trans (Real.sqrt_le_sqrt ?_), (Real.sqrt_le_sqrt ?_).trans (halfAngle_spec hv).2⟩
  · exact mul_le_mul_of_nonneg_right hlo (by positivity)
  · exact mul_le_mul_of_nonneg_right hhi (by positivity)

theorem halfAngleUp_le (u : Nat) : halfAngleUp u ≤ cosOne := Nat.min_le_left _ _

/-- Each use of the half-angle formula keeps the bounds. -/
theorem cosBounds_bounded {W : Nat} (hW : 0 < W) (n : Nat) {i : Nat} (hi : 2 * i ≤ W) :
    CosBounded W i (cosBounds W n i).1 (cosBounds W n i).2 := by
  have hone : (0 : ℝ) ≤ cosOne := by positivity
  induction n generalizing i with
  | zero =>
    have hlo := Real.neg_one_le_cos (angle W i)
    have hhi := Real.cos_le_one (angle W i)
    refine ⟨?_, ?_, Nat.le_refl _⟩
    · rw [cosBounds, Nat.cast_zero]
      exact mul_nonneg (by linarith) hone
    · rw [cosBounds, Nat.cast_mul, Nat.cast_ofNat]
      exact mul_le_mul_of_nonneg_right (by linarith) hone
  | succ n ih =>
    rw [cosBounds]
    split
    · rename_i hq
      obtain ⟨hdown, hup⟩ := (ih (i := 2 * i) (by omega)).halfAngle
      have hcos : 0 ≤ Real.cos (angle W i) := by
        rcases Nat.lt_or_eq_of_le hq with h | h
        · exact (cos_angle_pos hW h).le
        · exact (cos_angle_quarter hW h).ge
      rw [abs_of_nonneg hcos] at hdown hup
      have hle := halfAngleUp_le (cosBounds W n (2 * i)).2
      refine ⟨?_, ?_, by dsimp only; omega⟩
      · rw [Nat.cast_add]
        linarith
      · rw [Nat.cast_add]
        linarith
    · rename_i hq
      have hfold := ih (i := W - 2 * i) (by omega)
      rw [CosBounded, cos_angle_sub hW hi] at hfold
      obtain ⟨hdown, hup⟩ := CosBounded.halfAngle (W := W) (i := i) hfold
      have hcos := cos_angle_neg hW (by omega) hi
      rw [abs_of_neg hcos] at hdown hup
      refine ⟨?_, ?_, by dsimp only; omega⟩
      · rw [Nat.cast_sub (halfAngleUp_le _)]
        linarith
      · have := Nat.sub_le_iff_le_add.1 (Nat.le_refl (cosOne - halfAngleDown (cosBounds W n (W - 2 * i)).1))
        have hcast : (cosOne : ℝ) ≤ (cosOne - halfAngleDown (cosBounds W n (W - 2 * i)).1 : Nat) +
            halfAngleDown (cosBounds W n (W - 2 * i)).1 := by exact_mod_cast this
        linarith

/-! ### The default window -/

theorem refWindow_min {W i : Nat} (hW : 0 < W) (hi : i ≤ W) : refWindow W (min i (W - i)) = refWindow W i := by
  rcases Nat.le_total i (W - i) with h | h
  · rw [Nat.min_eq_left h]
  · rw [Nat.min_eq_right h, refWindow_eq, refWindow_eq, cos_angle_sub hW hi]

theorem refWindow_nonneg (W i : Nat) : 0 ≤ refWindow W i := by
  rw [refWindow_eq]
  linarith [Real.cos_le_one (angle W i)]

theorem refWindow_le_one (W i : Nat) : refWindow W i ≤ 1 := by
  rw [refWindow_eq]
  linarith [Real.neg_one_le_cos (angle W i)]

/-- The magnitude of a Hann value of u units of 1 - cos. -/
theorem hannMag_nearest {u : Nat} (hu : u ≤ 2 * cosOne) :
    hannMag u < infMag ∧ MagNearest (hannMag u) (u / (2 * cosOne : Nat) * 2 ^ 149) := by
  have hpos : 0 < 2 * cosOne := by decide
  have hfin : roundMag (u * 2 ^ 149) (2 * cosOne) < infMag := by
    refine lt_of_le_of_ne (roundMag_le_infMag _ _) fun h => ?_
    have h1 := (roundMag_eq_infMag_iff _ hpos).1 h
    have h2 : (2 ^ 25 - 1) * 2 ^ 252 * (2 * cosOne) ≤ 2 ^ 149 * (2 * cosOne) :=
      h1.trans (by rw [Nat.mul_comm]; exact Nat.mul_le_mul_left _ hu)
    exact absurd (Nat.le_of_mul_le_mul_right h2 hpos) (by decide)
  refine ⟨hfin, ?_⟩
  have := magNearest_roundMag hpos hfin
  rwa [Nat.cast_mul u, Nat.cast_pow, Nat.cast_ofNat, mul_div_right_comm] at this

/-- The two bounds on a window value are the nearest magnitudes of a value below it and of one above it. -/
theorem hannBounds_nearest {W i : Nat} (hW : 0 < W) (hi : 2 * i ≤ W) :
    ((hannBounds W i).1 < infMag ∧ (hannBounds W i).2 < infMag) ∧ ∃ a b : ℝ, MagNearest (hannBounds W i).1 a ∧
      MagNearest (hannBounds W i).2 b ∧ a ≤ refWindow W i * 2 ^ 149 ∧ refWindow W i * 2 ^ 149 ≤ b := by
  obtain ⟨hlo, hhi, hv⟩ := cosBounds_bounded hW 96 hi
  have hone : (0 : ℝ) < (2 * cosOne : Nat) := by exact_mod_cast (show 0 < 2 * cosOne by decide)
  have hval : refWindow W i = ((2 * cosOne : Nat) - (1 + Real.cos (angle W i)) * cosOne) / (2 * cosOne : Nat) := by
    rw [eq_div_iff hone.ne', refWindow_eq, Nat.cast_mul, Nat.cast_ofNat]
    ring
  obtain ⟨f1, n1⟩ := hannMag_nearest (u := 2 * cosOne - (cosBounds W 96 i).2) (Nat.sub_le _ _)
  obtain ⟨f2, n2⟩ := hannMag_nearest (u := 2 * cosOne - (cosBounds W 96 i).1) (Nat.sub_le _ _)
  have huv : (cosBounds W 96 i).1 ≤ (cosBounds W 96 i).2 := by exact_mod_cast hlo.trans hhi
  refine ⟨⟨f1, f2⟩, _, _, n1, n2, ?_, ?_⟩
  · rw [hval, Nat.cast_sub hv]
    exact mul_le_mul_of_nonneg_right (div_le_div_of_nonneg_right (by linarith) hone.le) (by positivity)
  · rw [hval, Nat.cast_sub (huv.trans hv)]
    exact mul_le_mul_of_nonneg_right (div_le_div_of_nonneg_right (by linarith) hone.le) (by positivity)

/-- Where the two bounds agree their value is the nearest (log 9). -/
theorem isNearestEven_hannBounds {W i : Nat} (hW : 0 < W) (hi : 2 * i ≤ W)
    (h : (hannBounds W i).1 = (hannBounds W i).2) :
    IsNearestEven (packFloat false (hannBounds W i).1) (refWindow W i) := by
  obtain ⟨⟨hfin, -⟩, a, b, ha, hb, har, hrb⟩ := hannBounds_nearest hW hi
  rw [← h] at hb
  have := isNearestEven_packFloat false (mul_nonneg (refWindow_nonneg W i) (by positivity)) hfin (ha.between hb har hrb)
  rwa [signFactor_false, one_mul, mul_div_cancel_right₀ _ (show (2 : ℝ) ^ 149 ≠ 0 by positivity)] at this

theorem isPowerOfTwo_iff {W : Nat} : isPowerOfTwo W = true ↔ ∃ k, W = 2 ^ k := by
  rw [isPowerOfTwo, Bool.and_eq_true, bne_iff_ne, beq_iff_eq]
  exact Nat.ne_zero_and_sub_one_eq_zero_iff_isPowerOfTwo

/-- A power of two's window values are rounded by exact comparison. -/
theorem isNearestEven_windowImpl_pow {W i : Nat} (hW : isPowerOfTwo W = true) (hi : i < W) :
    IsNearestEven (windowImpl W i) (refWindow W i) := by
  obtain ⟨k, rfl⟩ := isPowerOfTwo_iff.1 hW
  rw [windowImpl, hannMagAt, if_pos hW, Nat.log2_two_pow, ← refWindow_min (by omega) hi.le]
  exact isNearestEven_roundReal (hannCmp_comparesWith (by omega)) (refWindow_nonneg _ _)
    ((refWindow_le_one _ _).trans (by norm_num))

theorem hannMagAt_cases {W i : Nat} (hW : isPowerOfTwo W = false) :
    hannMagAt W i = (hannBounds W i).1 ∨ hannMagAt W i = (hannBounds W i).2 := by
  rw [hannMagAt, hW, if_neg Bool.false_ne_true]
  split
  · exact .inl rfl
  · split
    · exact .inr rfl
    · exact .inl rfl

theorem hannMagAt_finite {W i : Nat} (hW : isPowerOfTwo W = false) (h0 : 0 < W) (hi : 2 * i ≤ W) :
    hannMagAt W i < infMag := by
  obtain ⟨⟨h1, h2⟩, -⟩ := hannBounds_nearest h0 hi
  rcases hannMagAt_cases (i := i) hW with h | h
  · exact h.trans_lt h1
  · exact h.trans_lt h2

theorem magBits_windowImpl {W i : Nat} (hW : isPowerOfTwo W = false) (hi : i < W) :
    magBits (windowImpl W i) = hannMagAt W (min i (W - i)) :=
  magBits_packFloat _ ((hannMagAt_finite hW (by omega) (by omega)).trans infMag_lt)

/-- Settles O45: exact comparison for the powers of two, the bounds for every other length. -/
theorem windowIsCorrectlyRoundedHann : Obligations.WindowIsCorrectlyRoundedHann := by
  unfold Obligations.WindowIsCorrectlyRoundedHann
  intro W i _ hi
  have hfold : 2 * min i (W - i) ≤ W := by omega
  refine ⟨fun hpow => isNearestEven_windowImpl_pow hpow hi, fun heq => ?_, fun hpow => ?_⟩
  · have hnear := isNearestEven_hannBounds (by omega) hfold heq
    rw [refWindow_min (by omega) hi.le] at hnear
    refine ⟨hnear, ?_⟩
    cases hpow : isPowerOfTwo W with
    | true => exact isNearestEven_windowImpl_pow hpow hi
    | false =>
      have hmag : hannMagAt W (min i (W - i)) = (hannBounds W (min i (W - i))).1 := by
        rcases hannMagAt_cases (i := min i (W - i)) hpow with h | h
        · exact h
        · exact h.trans heq.symm
      rwa [windowImpl, hmag]
  · rw [magBits_windowImpl hpow hi]
    exact hannMagAt_cases hpow

/-- Every default window value is finite. -/
theorem windowImpl_finite {W i : Nat} (hi : i < W) : magBits (windowImpl W i) < infMag := by
  cases hpow : isPowerOfTwo W with
  | true => exact (isNearestEven_windowImpl_pow hpow hi).1.1
  | false =>
    rw [magBits_windowImpl hpow hi]
    exact hannMagAt_finite hpow (by omega) (by omega)

/-! ### The divisor of R313 -/

/-- The window values of a legal build are finite (log 4). -/
theorem windowOf_finite {b : Config.Build} (hb : BuildLegal b) {W i : Nat} (hi : i < W) :
    magBits (windowOf b W i) < infMag := by
  rcases windowOf_cases b W with ⟨t, ht, -, hval⟩ | hdefault
  · rw [hval]
    exact windowOf_table_finite hb ht i
  · rw [hdefault]
    exact windowImpl_finite hi

/-- A legal EPS is positive and finite (R222). -/
theorem nonNegative_of_epsOk {e : Word} (h : epsOk e = true) : NonNegative e ∧ magBits e ≠ 0 := by
  obtain ⟨hne, hlt⟩ := of_decide_eq_true h
  have hmod : magBits e = e.toNat := Nat.mod_eq_of_lt (hlt.trans infMag_lt)
  refine ⟨⟨?_, by rw [hmod]; exact hlt.le⟩, by rwa [hmod]⟩
  rw [signBit, BitVec.msb_eq_decide, decide_eq_false_iff_not]
  have := infMag_lt
  omega

/-- Settles O47: NORM[k] is a sum of squares of finite values, and EPS is positive. -/
theorem denominatorIsPositive : Obligations.DenominatorIsPositive := by
  unfold Obligations.DenominatorIsPositive
  intro s k v hv hwin hg harrays hk hread
  obtain ⟨-, hnorm⟩ := harrays hwin
  have helem := hnorm k (by rwa [state_normArray_length])
  rw [Nat.zero_add, hread, state_normArray_getElem? s hk] at helem
  obtain ⟨-, -, -, heps, -⟩ := hg.2 hv
  obtain ⟨hepsnn, hepsne⟩ := nonNegative_of_epsOk heps
  have hzero : NonNegative (numOfNat 0) := by
    rw [numOfNat_zero]
    exact ⟨by decide, by decide⟩
  have hvnn : NonNegative v := by
    rw [Option.some.inj helem]
    exact nonNegative_foldAt (fun _ _ hi => nonNegative_square (windowOf_finite hg.1 hi).le) hzero
  obtain ⟨hsum, hne⟩ := nonNegative_numAdd hvnn hepsnn
  exact ⟨not_isNaN_of_nonNegative hsum, hsum.1, hne hepsne⟩

end Sys2Proof.Proofs.Constants
end

section
/-! The exact-real reading (00_scope.md R12 to R17, 42_istft.md R315, R316): the reference FFT pair inverts, NORM is the
source's sum, and the round-trip and zero laws of the functions the command bodies run. -/

namespace Sys2Proof.Proofs.ExactReals

open Sys2Proof.Machine Sys2Proof.Proofs.Elements Sys2Proof.Proofs.Faults Sys2Proof.Proofs.Arrays
  Sys2Proof.Proofs.MicroCommands Sys2Proof.Proofs.Constants

/-! ### Sums of cosines over a period -/

/-- The angle 2π·d/W of an integer offset d. -/
noncomputable def offsetAngle (W : Nat) (d : Int) : ℝ := 2 * Real.pi * d / W

/-- The cosines of the multiples of 2π·d/W add to 0 over a period, unless W divides d. -/
theorem sum_cos_offset {W : Nat} (hW : 0 < W) {d : Int} (hd : ¬ (W : Int) ∣ d) :
    ∑ k ∈ Finset.range W, Real.cos (k * offsetAngle W d) = 0 := by
  have hw : (W : ℂ) ≠ 0 := by exact_mod_cast hW.ne'
  have hζ : Complex.exp (offsetAngle W d * Complex.I) ≠ 1 := by
    intro h
    obtain ⟨n, hn⟩ := Complex.exp_eq_one_iff.1 h
    refine hd ⟨n, ?_⟩
    have h2 : (2 * Real.pi * Complex.I : ℂ) ≠ 0 := Complex.two_pi_I_ne_zero
    have : (d : ℂ) = W * n := by
      rw [offsetAngle] at hn
      push_cast at hn
      field_simp at hn
      linear_combination hn
    exact_mod_cast this
  have hpow : Complex.exp (offsetAngle W d * Complex.I) ^ W = 1 := by
    rw [← Complex.exp_nat_mul, Complex.exp_eq_one_iff]
    refine ⟨d, ?_⟩
    rw [offsetAngle]
    push_cast
    field_simp
  have hsum : ∑ k ∈ Finset.range W, Complex.exp (offsetAngle W d * Complex.I) ^ k = 0 := by
    rw [geom_sum_eq hζ, hpow, sub_self, zero_div]
  have hre := congrArg Complex.re hsum
  rw [Complex.re_sum, Complex.zero_re] at hre
  rw [← hre]
  refine Finset.sum_congr rfl fun k _ => ?_
  rw [← Complex.exp_nat_mul, ← mul_assoc, ← Complex.ofReal_natCast, ← Complex.ofReal_mul, Complex.exp_ofReal_mul_I_re]

/-- Over a period the multiples of an offset's angle are symmetric. -/
theorem cos_offset_reflect {h j : Nat} (hh : 0 < h) (hj : j ≤ h) (d : Int) :
    Real.cos ((h + j : Nat) * offsetAngle (2 * h) d) = Real.cos ((h - j : Nat) * offsetAngle (2 * h) d) := by
  have hr : (h : ℝ) ≠ 0 := by exact_mod_cast hh.ne'
  rw [← Real.cos_int_mul_two_pi_sub _ d, offsetAngle, Nat.cast_sub hj]
  congr 1
  push_cast
  field_simp
  ring

/-- The sum over a period, folded at its middle as the half-spectrum is. -/
theorem sum_cos_fold {h : Nat} (hh : 0 < h) (d : Int) :
    ∑ k ∈ Finset.range (2 * h), Real.cos (k * offsetAngle (2 * h) d) =
      1 + Real.cos (h * offsetAngle (2 * h) d) + 2 * ∑ k ∈ Finset.Ico 1 h, Real.cos (k * offsetAngle (2 * h) d) := by
  have hupper : ∑ j ∈ Finset.Ico 1 h, Real.cos ((h + j : Nat) * offsetAngle (2 * h) d) =
      ∑ k ∈ Finset.Ico 1 h, Real.cos (k * offsetAngle (2 * h) d) := by
    have hreflect := Finset.sum_Ico_reflect (fun k : Nat => Real.cos (k * offsetAngle (2 * h) d)) 1 (Nat.le_succ h)
    rw [Nat.add_sub_cancel_left, Nat.add_sub_cancel] at hreflect
    rw [← hreflect]
    exact Finset.sum_congr rfl fun j hj => cos_offset_reflect hh (Finset.mem_Ico.1 hj).2.le d
  rw [Nat.two_mul, Finset.sum_range_add, ← Nat.two_mul, Finset.range_eq_Ico, Finset.sum_eq_sum_Ico_succ_bot hh,
    Finset.sum_eq_sum_Ico_succ_bot hh, hupper, Nat.cast_zero, zero_mul, Real.cos_zero]
  simp only [Nat.add_zero, Nat.zero_add]
  ring

/-! ### The reference pair -/

/-- The half-spectrum of a segment (R12). -/
noncomputable def refSpectrum (W : Nat) (x : List ℝ) : List (ℝ × ℝ) :=
  (List.range (W / 2 + 1)).map fun k => (refForwardRe W x k, refForwardIm W x k)

theorem refSpectrum_getD {W k : Nat} (x : List ℝ) (hk : k ≤ W / 2) :
    (refSpectrum W x).getD k (0, 0) = (refForwardRe W x k, refForwardIm W x k) := by
  rw [refSpectrum, List.getD_eq_getElem?_getD, List.getElem?_map, List.getElem?_range (by omega)]
  rfl

/-- The angle of a difference of positions. -/
theorem offsetAngle_sub (W k n m : Nat) :
    k * offsetAngle W ((n : Int) - m) = 2 * Real.pi * k * n / W - 2 * Real.pi * k * m / W := by
  rw [offsetAngle]
  push_cast
  ring

/-- One bin's contribution to sample n, position by position. -/
theorem refInverseTerm_refSpectrum {W k : Nat} (x : List ℝ) (n : Nat) (hk : k ≤ W / 2) :
    refInverseTerm W (refSpectrum W x) n k =
      ∑ m ∈ Finset.range W, x.getD m 0 * Real.cos (k * offsetAngle W ((n : Int) - m)) := by
  rw [refInverseTerm, refSpectrum_getD x hk, refForwardRe, refForwardIm, neg_mul, sub_neg_eq_add, Finset.sum_mul,
    Finset.sum_mul, ← Finset.sum_add_distrib]
  refine Finset.sum_congr rfl fun m _ => ?_
  rw [offsetAngle_sub, Real.cos_sub]
  ring

/-- Bins 0 and W/2 contribute as the others do: their sines are 0 (R13). -/
theorem refInverse_edges {h : Nat} (hh : 0 < h) (X : List (ℝ × ℝ)) (n : Nat) :
    refInverse (2 * h) X n = refInverseTerm (2 * h) X n 0 + refInverseTerm (2 * h) X n h +
      2 * ∑ k ∈ Finset.Ico 1 h, refInverseTerm (2 * h) X n k := by
  have hr : (h : ℝ) ≠ 0 := by exact_mod_cast hh.ne'
  have hangle : 2 * Real.pi * h * n / (2 * h : Nat) = n * Real.pi := by
    push_cast
    field_simp
  have h0 : refInverseTerm (2 * h) X n 0 = (X.getD 0 (0, 0)).1 := by simp [refInverseTerm]
  have hmid : refInverseTerm (2 * h) X n h = (-1) ^ n * (X.getD h (0, 0)).1 := by
    rw [refInverseTerm, hangle, Real.cos_nat_mul_pi, Real.sin_nat_mul_pi]
    ring
  rw [refInverse, Nat.mul_div_cancel_left _ two_pos, h0, hmid]

/-- Sample n gathers every position with the kernel of their offset (R14). -/
theorem refInverse_refSpectrum {h : Nat} (hh : 0 < h) (x : List ℝ) (n : Nat) :
    refInverse (2 * h) (refSpectrum (2 * h) x) n = ∑ m ∈ Finset.range (2 * h),
      x.getD m 0 * ∑ k ∈ Finset.range (2 * h), Real.cos (k * offsetAngle (2 * h) ((n : Int) - m)) := by
  have hterm : ∀ k ≤ h, refInverseTerm (2 * h) (refSpectrum (2 * h) x) n k = _ := fun k hk =>
    refInverseTerm_refSpectrum x n (by omega)
  rw [refInverse_edges hh, hterm 0 (Nat.zero_le h), hterm h (Nat.le_refl h),
    Finset.sum_congr rfl fun k hk => hterm k (Finset.mem_Ico.1 hk).2.le, Finset.sum_comm, Finset.mul_sum,
    ← Finset.sum_add_distrib, ← Finset.sum_add_distrib]
  refine Finset.sum_congr rfl fun m _ => ?_
  rw [sum_cos_fold hh, ← Finset.mul_sum, Nat.cast_zero, zero_mul, Real.cos_zero]
  ring

/-- The reference inverse of the reference transform is W times the segment (R14). -/
theorem refInverse_of_refForward {W : Nat} (heven : W % 2 = 0) (h2 : 2 ≤ W) (x : List ℝ) {n : Nat} (hn : n < W) :
    refInverse W (refSpectrum W x) n = W * x.getD n 0 := by
  obtain ⟨h, rfl⟩ : ∃ h, W = 2 * h := ⟨W / 2, by omega⟩
  rw [refInverse_refSpectrum (by omega), Finset.sum_eq_single_of_mem n (Finset.mem_range.2 hn)]
  · simp [offsetAngle, mul_comm]
  · intro m hm hne
    have hm := Finset.mem_range.1 hm
    rw [sum_cos_offset (by omega), mul_zero]
    intro hdvd
    have := Int.eq_zero_of_abs_lt_dvd hdvd (by rw [abs_lt]; omega)
    omega

/-- Settles O48: the half-spectrum folds into the full sums of cosines. -/
theorem referenceInverseIdentity : Obligations.ReferenceInverseIdentity := by
  unfold Obligations.ReferenceInverseIdentity
  intro W x heven h2 _ n hn
  exact refInverse_of_refForward heven h2 x hn

/-! ### NORM -/

/-- The frames whose segment covers position k (R225). -/
def covering (W H NB k : Nat) : Finset Nat := (Finset.range NB).filter fun f => f * H ≤ k ∧ k < f * H + W

theorem foldAt_concat {α : Type} (A : NumSystem α) (W H : Nat) (T : Nat → Nat → α) (k : Nat) (v : α) (fs : List Nat)
    (f : Nat) : foldAt A W H T k v (fs ++ [f]) =
      if f * H ≤ k ∧ k < f * H + W then A.add (foldAt A W H T k v fs) (T f (k - f * H)) else foldAt A W H T k v fs := by
  rw [foldAt, List.foldl_append]
  rfl

/-- Over the reals the terms that land on a position add up. -/
theorem foldAt_exactReal (W H NB k : Nat) (T : Nat → Nat → ℝ) (v : ℝ) :
    foldAt exactReal W H T k v (List.range NB) = v + ∑ f ∈ covering W H NB k, T f (k - f * H) := by
  induction NB with
  | zero => simp [foldAt, covering]
  | succ NB ih =>
    rw [List.range_succ, foldAt_concat, ih, covering, covering, Finset.range_add_one, Finset.filter_insert]
    split
    · rw [Finset.sum_insert (by simp)]
      show v + _ + T NB (k - NB * H) = _
      ring
    · rfl

/-- NORM[k] over the reals (R225). -/
noncomputable def normSum (win : List ℝ) (W H NB k : Nat) : ℝ := ∑ f ∈ covering W H NB k, (win.getD (k - f * H) 0) ^ 2

theorem normSum_nonneg (win : List ℝ) (W H NB k : Nat) : 0 ≤ normSum win W H NB k :=
  Finset.sum_nonneg fun _ _ => sq_nonneg _

theorem normArray_exactReal {win : List ℝ} {W L H NB k : Nat} (hlen : win.length = W) (hk : k < L) :
    (normArray exactReal win L H NB)[k]? = some (normSum win W H NB k) := by
  rw [normArray_getElem? exactReal hlen (fun i hi => getElem?_eq_getD (by omega) 0) hk, foldAt_exactReal]
  congr 1
  show ((0 : Nat) : ℝ) + _ = _
  rw [Nat.cast_zero, zero_add]
  exact Finset.sum_congr rfl fun f _ => (sq _).symm

/-- Settles O49: the fold of the squares is their sum. -/
theorem normIsTheSumOfSquares : Obligations.NormIsTheSumOfSquares := by
  unfold Obligations.NormIsTheSumOfSquares
  intro W H N win eps _ heps hlen k hk
  have hnonneg := normSum_nonneg win W H (N / H + 1) k
  exact ⟨_, normArray_exactReal hlen hk, rfl, hnonneg, add_pos_of_nonneg_of_pos hnonneg heps⟩

/-! ### The inverse pass -/

/-- A term of a frame over the reals (R11, R312). -/
theorem synthesisTerms_exactReal {W : Nat} (eps : ℝ) (X : List (ℝ × ℝ)) {win norm : List ℝ} (hwin : win.length = W)
    (hnorm : norm.length = W) {i : Nat} (hi : i < W) :
    (synthesisTerms exactReal W eps (inverseSamples exactReal W X) win norm)[i]? =
      some (refInverse W X i * win.getD i 0 / W / (norm.getD i 0 + eps)) := by
  simp only [synthesisTerms, inverseSamples, List.getElem?_zipWith, List.getElem?_map, List.getElem?_range hi,
    List.zip_eq_zipWith, getElem?_eq_getD (show i < win.length by omega) (0 : ℝ),
    getElem?_eq_getD (show i < norm.length by omega) (0 : ℝ)]
  rfl

theorem getD_slice {x : List ℝ} {start n i : Nat} (hi : i < n) :
    ((x.drop start).take n).getD i 0 = x.getD (start + i) 0 := by
  rw [List.getD_eq_getElem?_getD, List.getD_eq_getElem?_getD, List.getElem?_take, if_pos hi, List.getElem?_drop]

/-- The frame of a start that is no later than N ends inside N + W (R264). -/
theorem slice_length {W H N f : Nat} {x : List ℝ} (hx : x.length = N + W) (hH : 1 ≤ H) (hf : f < N / H + 1) :
    ((x.drop (f * H)).take W).length = W := by
  have := (Nat.le_div_iff_mul_le hH).1 (Nat.lt_succ_iff.1 hf)
  rw [List.length_take, List.length_drop]
  omega

/-- Sample n of the inverse pass is the sum of the terms that land on it (R312, R362). -/
theorem inversePass_exactReal {W H N : Nat} (ci eps : ℝ) {win norm : List ℝ} {frames : List (List (ℝ × ℝ))}
    (hwin : win.length = W) (hnorm : norm.length = N + W) (hH : 1 ≤ H) (hframes : frames.length = N / H + 1)
    {n : Nat} (hn : n < N) :
    (inversePass exactReal W H N ci eps win norm frames)[n]? =
      some (∑ f ∈ covering W H (N / H + 1) (W / 2 + n),
        refInverse W (unscaleFrame exactReal ci (frames.getD f [])) (W / 2 + n - f * H) * win.getD (W / 2 + n - f * H) 0
          / W / (norm.getD (W / 2 + n) 0 + eps)) := by
  have hslice : ∀ f ∈ List.range (N / H + 1), ((norm.drop (f * H)).take W).length = W := fun f hf =>
    slice_length hnorm hH (List.mem_range.1 hf)
  have hzero : (List.replicate (N + W) (exactReal.ofNat 0))[W / 2 + n]? = some 0 := by
    rw [List.getElem?_replicate, if_pos (by omega)]
    exact congrArg some Nat.cast_zero
  rw [inversePass, accumulateFrames, hframes, List.getElem?_take, if_pos hn, List.getElem?_drop,
    foldl_overlapAdd_getElem? exactReal (fun f hf => by simp [hslice f hf, hwin])
      (fun f hf i hi => synthesisTerms_exactReal eps _ hwin (hslice f hf) hi) hzero, foldAt_exactReal, zero_add]
  congr 1
  refine Finset.sum_congr rfl fun f hf => ?_
  obtain ⟨hlo, hhi⟩ := (Finset.mem_filter.1 hf).2
  rw [getD_slice (by omega), Nat.add_sub_cancel' hlo]

/-! ### The round-trip law -/

/-- The two scales cancel, so the inverse pass gets the spectrum itself (R17). -/
theorem unscaleFrame_forwardSpectrum {W : Nat} (hW : 0 < W) (y : List ℝ) :
    unscaleFrame exactReal (exactReal.invScale W)
      (forwardSpectrum exactReal W (W / 2 + 1) (exactReal.fwdScale W) y) = refSpectrum W y := by
  have hsqrt : 0 < Real.sqrt W := Real.sqrt_pos.2 (by exact_mod_cast hW)
  have hcancel : ∀ r : ℝ, r * (1 / Real.sqrt W) * Real.sqrt W = r := fun r => by field_simp
  rw [unscaleFrame, forwardSpectrum, List.map_map, refSpectrum]
  exact List.map_congr_left fun k _ => Prod.ext (hcancel _) (hcancel _)

/-- The centre of the padded row is the row (R265). -/
theorem paddedRow_centre {P n : Nat} {x : List ℝ} (hP : P + 1 ≤ x.length) (hn : n < x.length) :
    (paddedRow P x).getD (P + n) 0 = x.getD n 0 := by
  have hleft : (leftPad P x).length = P := leftPad_length hP
  rw [List.getD_eq_getElem?_getD, List.getD_eq_getElem?_getD, paddedRow, List.append_assoc,
    List.getElem?_append_right (by omega), List.getElem?_append_left (by omega), hleft, Nat.add_sub_cancel_left]

theorem real_paddedRow_length {P : Nat} {x : List ℝ} (hP : P + 1 ≤ x.length) :
    (paddedRow P x).length = x.length + 2 * P := by
  rw [paddedRow, List.length_append, List.length_append, leftPad_length hP, rightPad_length hP]
  omega

theorem windowSegment_exactReal {W i : Nat} {y win : List ℝ} (hy : y.length = W) (hwin : win.length = W) (hi : i < W) :
    (windowSegment exactReal y win).getD i 0 = y.getD i 0 * win.getD i 0 := by
  rw [List.getD_eq_getElem?_getD, windowSegment, List.getElem?_zipWith, getElem?_eq_getD (show i < y.length by omega) 0,
    getElem?_eq_getD (show i < win.length by omega) 0]
  rfl

theorem forwardPass_getD {W H NB f : Nat} (cf : ℝ) (win x : List ℝ) (hf : f < NB) :
    (forwardPass exactReal W H NB cf win x).getD f [] = forwardSpectrum exactReal W (W / 2 + 1) cf
      (windowSegment exactReal (((paddedRow (W / 2) x).drop (f * H)).take W) win) := by
  rw [forwardPass, List.getD_eq_getElem?_getD, List.getElem?_map, List.getElem?_range hf]
  rfl

/-- Settles O50: each covering frame gives x times the square of its window value. -/
theorem roundTripLaw : Obligations.RoundTripLaw := by
  unfold Obligations.RoundTripLaw
  intro W H N x eps heven h2 hH _ hN hlen _ win norm frames n hn
  have hwin : win.length = W := windowArray_length exactReal W
  have hnorm : norm.length = N + W := normArray_length _ _ _ _ _
  have hpad : (paddedRow (W / 2) x).length = N + W := by
    rw [real_paddedRow_length (by omega)]
    omega
  have hnormk : norm.getD (W / 2 + n) 0 = normSum win W H (N / H + 1) (W / 2 + n) := by
    rw [List.getD_eq_getElem?_getD, normArray_exactReal hwin (by omega), Option.getD_some]
  have hw : (W : ℝ) ≠ 0 := by exact_mod_cast (show W ≠ 0 by omega)
  rw [inversePass_exactReal _ eps hwin hnorm hH (by simp [frames, forwardPass]) hn]
  congr 1
  calc _ = ∑ f ∈ covering W H (N / H + 1) (W / 2 + n),
        x.getD n 0 / (norm.getD (W / 2 + n) 0 + eps) * (win.getD (W / 2 + n - f * H) 0) ^ 2 := by
        refine Finset.sum_congr rfl fun f hf => ?_
        obtain ⟨hrange, hlo, hhi⟩ := Finset.mem_filter.1 hf
        have hf := Finset.mem_range.1 hrange
        rw [forwardPass_getD _ _ _ hf, unscaleFrame_forwardSpectrum (by omega), refInverse_of_refForward heven h2 _
          (by omega), windowSegment_exactReal (slice_length hpad hH hf) hwin (by omega), getD_slice (by omega),
          Nat.add_sub_cancel' hlo, paddedRow_centre (by omega) (by omega)]
        field_simp
    _ = _ := by
        rw [← Finset.mul_sum, hnormk]
        exact (mul_div_right_comm _ _ _).symm

/-! ### The zero law -/

/-- Every value of the list is zero. -/
def AllZero (x : List ℝ) : Prop := ∀ i, x.getD i 0 = 0

theorem refForward_zero {x : List ℝ} (h : AllZero x) (W k : Nat) : refForwardRe W x k = 0 ∧ refForwardIm W x k = 0 := by
  constructor
  · exact Finset.sum_eq_zero fun n _ => by rw [h n, zero_mul]
  · rw [refForwardIm, Finset.sum_eq_zero fun n _ => by rw [h n, zero_mul], neg_zero]

theorem refInverse_zero {X : List (ℝ × ℝ)} (h : ∀ k, X.getD k (0, 0) = (0, 0)) (W n : Nat) : refInverse W X n = 0 := by
  rw [refInverse, h, h, Finset.sum_eq_zero fun k _ => by rw [refInverseTerm, h]; simp]
  simp

theorem windowSegment_zero {x : List ℝ} (h : AllZero x) (win : List ℝ) : AllZero (windowSegment exactReal x win) := by
  intro i
  rw [List.getD_eq_getElem?_getD, windowSegment, List.getElem?_zipWith]
  have hi := h i
  rw [List.getD_eq_getElem?_getD] at hi
  cases hx : x[i]? with
  | none => rfl
  | some v =>
    rw [hx, Option.getD_some] at hi
    cases win[i]? with
    | none => rfl
    | some w => exact (congrArg (· * w) hi).trans (zero_mul w)

theorem forwardSpectrum_zero {y : List ℝ} (h : AllZero y) (W : Nat) (cf : ℝ) :
    forwardSpectrum exactReal W (W / 2 + 1) cf y = List.replicate (W / 2 + 1) (0, 0) := by
  refine List.eq_replicate_iff.2 ⟨forwardSpectrum_length _ _ _ _ _, fun z hz => ?_⟩
  obtain ⟨k, -, rfl⟩ := List.mem_map.1 hz
  obtain ⟨hre, him⟩ := refForward_zero h W k
  exact Prod.ext ((congrArg (· * cf) hre).trans (zero_mul cf)) ((congrArg (· * cf) him).trans (zero_mul cf))

theorem unscaleFrame_zero (ci : ℝ) (n k : Nat) :
    (unscaleFrame exactReal ci (List.replicate n (0, 0))).getD k (0, 0) = (0, 0) := by
  have hscale : scale exactReal ci (0, 0) = (0, 0) := Prod.ext (zero_mul ci) (zero_mul ci)
  rw [unscaleFrame, List.map_replicate, hscale, List.getD_eq_getElem?_getD, List.getElem?_replicate]
  split <;> rfl

/-- The padded row of a zero row is zero, and so is every slice of it. -/
theorem paddedRow_zero (P N start n : Nat) :
    AllZero (((paddedRow P (List.replicate N (0 : ℝ))).drop start).take n) := by
  have h : ∀ v ∈ ((paddedRow P (List.replicate N (0 : ℝ))).drop start).take n, v = 0 := fun v hv => by
    have hmem := List.mem_of_mem_drop (List.mem_of_mem_take hv)
    simp only [paddedRow, leftPad, rightPad, List.mem_append, List.mem_reverse] at hmem
    rcases hmem with (hmem | hmem) | hmem
    · exact List.eq_of_mem_replicate (List.mem_of_mem_drop (List.mem_of_mem_take hmem))
    · exact List.eq_of_mem_replicate hmem
    · exact List.eq_of_mem_replicate (List.mem_of_mem_drop (List.mem_of_mem_take hmem))
  intro i
  rw [List.getD_eq_getElem?_getD]
  cases hi : (((paddedRow P (List.replicate N (0 : ℝ))).drop start).take n)[i]? with
  | none => rfl
  | some v => exact h v (List.mem_of_getElem? hi)

theorem inversePass_length (W H N : Nat) (ci eps : ℝ) (win norm : List ℝ) (frames : List (List (ℝ × ℝ))) :
    (inversePass exactReal W H N ci eps win norm frames).length = N := by
  rw [inversePass, accumulateFrames, List.length_take, List.length_drop, foldl_overlapAdd_length, List.length_replicate]
  omega

/-- Settles O51: every term of a zero spectrogram and every bin of a zero row is zero. -/
theorem zeroLaw : Obligations.ZeroLaw := by
  unfold Obligations.ZeroLaw
  intro W H N eps _ _ hH _ _ _ win norm
  have hwin : win.length = W := windowArray_length exactReal W
  have hnorm : norm.length = N + W := normArray_length _ _ _ _ _
  constructor
  · refine List.eq_replicate_iff.2 ⟨inversePass_length _ _ _ _ _ _ _ _, fun v hv => ?_⟩
    obtain ⟨n, hn⟩ := List.mem_iff_getElem?.1 hv
    have hlt : n < N := by
      have := (List.getElem?_eq_some_iff.1 hn).1
      rwa [inversePass_length] at this
    rw [inversePass_exactReal _ eps hwin hnorm hH (by simp) hlt] at hn
    rw [← Option.some.inj hn]
    refine Finset.sum_eq_zero fun f hf => ?_
    have hf := Finset.mem_range.1 (Finset.mem_filter.1 hf).1
    rw [List.getD_eq_getElem?_getD, List.getElem?_replicate, if_pos hf, Option.getD_some,
      refInverse_zero (unscaleFrame_zero _ _)]
    simp
  · refine List.eq_replicate_iff.2 ⟨by simp [forwardPass], fun fr hfr => ?_⟩
    obtain ⟨f, -, rfl⟩ := List.mem_map.1 hfr
    exact forwardSpectrum_zero (windowSegment_zero (paddedRow_zero _ _ _ _) win) W _

end Sys2Proof.Proofs.ExactReals
end
